-- ==== Sys2Proof/Word.lean ====
section
/-! DEFINITION. The bit-vector types of the S-AES core (spec/00_scope.md R6, R7; spec/10_state.md R20;
spec/30_encoding.md R80). Every value of the hardware is an unsigned bit vector of a stated width, and the only
arithmetic on them is xor, so this file holds types alone; slices and concatenations stand in Machine/Operands.lean. -/

namespace Sys2Proof

/-- A nibble: 4 bits, the unit of all state (R7, R20). -/
abbrev Nibble := BitVec 4

/-- A byte: exactly two nibbles, the high one first (R7, R20). -/
abbrev Byte := BitVec 8

/-- A 16-bit block, key or round key (R7, R20). -/
abbrev Word16 := BitVec 16

/-- A command word CW, 24 bits (R80). -/
abbrev CmdWord := BitVec 24

end Sys2Proof
end

