-- ==== Sys2Proof/Syntax.lean ====
section
/-! DEFINITION. The twelve operations of spec/opcode_table.json, one constructor a row, with the operands
spec/30_encoding.md R82 gives its format. Bits of IMM that a format does not use are ignored by the hardware (R83; two
words that differ only in them are the same command), so no constructor carries them. -/

namespace Sys2Proof

/-- A decoded command: one constructor per row of the opcode table (spec/30_encoding.md R84). -/
inductive Instr where
  /-- `NOP`, OPC 0x0, format Z: idle command (R200). -/
  | nop
  /-- `LDS #imm`, OPC 0x1, format W: load the data word (R167). -/
  | lds (imm : Word16)
  /-- `KEX #imm`, OPC 0x2, format W: expand the master key (R148). -/
  | kex (imm : Word16)
  /-- `ARK idx`, OPC 0x3, format K: add round key; index 3 is a legal encoding that faults (R85, R168). -/
  | ark (idx : BitVec 2)
  /-- `SUB`, OPC 0x4, format Z: substitute nibbles (R169). -/
  | sub
  /-- `SHR`, OPC 0x5, format Z: shift rows (R170). -/
  | shr
  /-- `MIX`, OPC 0x6, format Z: mix columns (R171). -/
  | mix
  /-- `STG`, OPC 0x7, format Z: apply the next stage (R172). -/
  | stg
  /-- `ENC`, OPC 0x8, format Z: encrypt the block in S (R173). -/
  | enc
  /-- `SBX #n`, OPC 0x9, format N: S-Box lookup (R115). -/
  | sbx (n : Nibble)
  /-- `ROT #b`, OPC 0xA, format B: nibble rotation (R116). -/
  | rot (b : Byte)
  /-- `GFM #a, #b`, OPC 0xB, format P: field multiplication (R117). -/
  | gfm (a b : Nibble)
  deriving DecidableEq, Repr

end Sys2Proof
end

