-- ==== Sys2Proof/WellFormed.lean ====
section
/-! DEFINITION. Well-formedness. An `Instr` needs no check: the width of each operand is the width of its field, so every
term of the type is a command with an encoding (spec/30_encoding.md R82). The check stands where a command is written with
numbers, in the assembler's syntax (spec/30_encoding.md R89): an immediate must fit its field, and an `ARK` index must be at
most 3 (`ARK 3` is accepted, so that its fault can be written down). -/

namespace Sys2Proof

/-- A command as an assembler reads it: a mnemonic with natural-number operands, not yet checked (R89). -/
inductive AsmCmd where
  | nop
  | lds (imm : Nat)
  | kex (imm : Nat)
  | ark (idx : Nat)
  | sub
  | shr
  | mix
  | stg
  | enc
  | sbx (n : Nat)
  | rot (b : Nat)
  | gfm (a b : Nat)
  deriving DecidableEq, Repr

/-- The operands fit their fields: 16 bits for `LDS` and `KEX`, 4 for `SBX` and each `GFM` operand, 8 for `ROT`, an `ARK`
index at most 3 (R89). -/
def AsmCmd.wellFormed : AsmCmd → Bool
  | .lds imm => decide (imm < 2 ^ 16)
  | .kex imm => decide (imm < 2 ^ 16)
  | .ark idx => decide (idx ≤ 3)
  | .sbx n => decide (n < 2 ^ 4)
  | .rot b => decide (b < 2 ^ 8)
  | .gfm a b => decide (a < 2 ^ 4) && decide (b < 2 ^ 4)
  | .nop => true
  | .sub => true
  | .shr => true
  | .mix => true
  | .stg => true
  | .enc => true

end Sys2Proof
end

