-- ==== Sys2Proof/Decode.lean ====
section
/-! DEFINITION. The decoder and encoder of command words (spec/30_encoding.md R80 to R88), and the opcode table as rows
of match and mask. -/

namespace Sys2Proof

/-- Why a word is no command. Each of these raises InvalidInput with cause 1 (spec/30_encoding.md R85); the hardware records no
difference between them. -/
inductive DecodeError where
  /-- OPC in 0xC..0xF (R201). -/
  | reservedOpcode
  /-- RSV is not 0b00. -/
  | rsvNonzero
  /-- IDX is not 0b00 in a command other than `ARK`. -/
  | idxNonzero
  deriving DecidableEq, Repr

/-- Field OPC = CW[23:20] (R81). -/
def fieldOpc (w : CmdWord) : BitVec 4 := w.extractLsb' 20 4

/-- Field IDX = CW[19:18] (R81). -/
def fieldIdx (w : CmdWord) : BitVec 2 := w.extractLsb' 18 2

/-- Field RSV = CW[17:16] (R81). -/
def fieldRsv (w : CmdWord) : BitVec 2 := w.extractLsb' 16 2

/-- Field IMM = CW[15:0] (R81). -/
def fieldImm (w : CmdWord) : Word16 := w.extractLsb' 0 16

/-- The operation an opcode selects, with its operands taken from IDX and IMM as unsigned fields (R82, R83, R84). `none` for the
reserved opcodes 0xC to 0xF. -/
def selectOp (opc : BitVec 4) (idx : BitVec 2) (imm : Word16) : Option Instr :=
  match opc.toNat with
  | 0x0 => some .nop
  | 0x1 => some (.lds imm)
  | 0x2 => some (.kex imm)
  | 0x3 => some (.ark idx)
  | 0x4 => some .sub
  | 0x5 => some .shr
  | 0x6 => some .mix
  | 0x7 => some .stg
  | 0x8 => some .enc
  | 0x9 => some (.sbx (imm.extractLsb' 0 4))
  | 0xA => some (.rot (imm.extractLsb' 0 8))
  | 0xB => some (.gfm (imm.extractLsb' 4 4) (imm.extractLsb' 0 4))
  | _ => none

/-- Decoding, total on every 24-bit word (R85, R87). -/
def decode (w : CmdWord) : Except DecodeError Instr :=
  match selectOp (fieldOpc w) (fieldIdx w) (fieldImm w) with
  | none => .error .reservedOpcode
  | some i =>
    if fieldRsv w ≠ 0 then .error .rsvNonzero
    else if fieldIdx w ≠ 0 ∧ fieldOpc w ≠ 0x3 then .error .idxNonzero
    else .ok i

/-- The word with the given fields and RSV = 0: `OPC(4) IDX(2) RSV(2) IMM(16)`, most significant first (R82). -/
def cmdWord (opc : BitVec 4) (idx : BitVec 2) (imm : Word16) : CmdWord :=
  opc ++ idx ++ 0#2 ++ imm

/-- The canonical encoding, which an assembler emits: every ignored bit is 0 (R88). -/
def encode : Instr → CmdWord
  | .nop => cmdWord 0x0 0 0
  | .lds imm => cmdWord 0x1 0 imm
  | .kex imm => cmdWord 0x2 0 imm
  | .ark idx => cmdWord 0x3 idx 0
  | .sub => cmdWord 0x4 0 0
  | .shr => cmdWord 0x5 0 0
  | .mix => cmdWord 0x6 0 0
  | .stg => cmdWord 0x7 0 0
  | .enc => cmdWord 0x8 0 0
  | .sbx n => cmdWord 0x9 0 (0#12 ++ n)
  | .rot b => cmdWord 0xA 0 (0#8 ++ b)
  | .gfm a b => cmdWord 0xB 0 (0#8 ++ a ++ b)

/-- The mnemonic of an operation (R84). -/
def Instr.mnemonic : Instr → String
  | .nop => "NOP"
  | .lds _ => "LDS"
  | .kex _ => "KEX"
  | .ark _ => "ARK"
  | .sub => "SUB"
  | .shr => "SHR"
  | .mix => "MIX"
  | .stg => "STG"
  | .enc => "ENC"
  | .sbx _ => "SBX"
  | .rot _ => "ROT"
  | .gfm _ _ => "GFM"

/-- The bits of a word that are not ignored: OPC, IDX and RSV, and the IMM bits the format uses (R82, R83). -/
def Instr.usedBits : Instr → CmdWord
  | .lds _ | .kex _ => 0xFFFFFF
  | .sbx _ => 0xFF000F
  | .rot _ | .gfm _ _ => 0xFF00FF
  | .nop | .ark _ | .sub | .shr | .mix | .stg | .enc => 0xFF0000

/-- One row of the opcode table (R88): a word matches it when `(CW and mask) = value`. -/
structure OpRow where
  mnemonic : String
  value : CmdWord
  mask : CmdWord
  deriving DecidableEq, Repr

/-- The test "matches row" of R87. -/
def OpRow.accepts (r : OpRow) (w : CmdWord) : Bool := w &&& r.mask == r.value

/-- The opcode table (R88, spec/opcode_table.json). The decoder above is written from the fields; that the two agree is an
obligation, not a definition. -/
def opcodeTable : List OpRow :=
  [⟨"NOP", 0x000000, 0xFF0000⟩, ⟨"LDS", 0x100000, 0xFF0000⟩, ⟨"KEX", 0x200000, 0xFF0000⟩,
   ⟨"ARK", 0x300000, 0xF30000⟩, ⟨"SUB", 0x400000, 0xFF0000⟩, ⟨"SHR", 0x500000, 0xFF0000⟩,
   ⟨"MIX", 0x600000, 0xFF0000⟩, ⟨"STG", 0x700000, 0xFF0000⟩, ⟨"ENC", 0x800000, 0xFF0000⟩,
   ⟨"SBX", 0x900000, 0xFF0000⟩, ⟨"ROT", 0xA00000, 0xFF0000⟩, ⟨"GFM", 0xB00000, 0xFF0000⟩]

/-- The command word whose low `nbits` bits are those of `w`, the bits above them 0. A command is one word of 24 bits, so the
table's bit numbering is the word's own. -/
def tableWord (nbits w : Nat) : CmdWord := BitVec.ofNat 24 (w % 2 ^ nbits)

/-- What the decoder reads from an instruction whose bits are `w`, numbered as spec/opcode_table.json numbers them. -/
def decodeTableWord (nbits w : Nat) : Option Instr := (decode (tableWord nbits w)).toOption

end Sys2Proof
end

