-- ==== Sys2Proof/Config.lean ====
section
/-! DEFINITION. What the spec leaves open, as constants with no body: nothing in Lean can evaluate one, so a theorem about
the machine holds for every choice. The ROM contents, the polynomial and the mix matrix, which the spec fixes (spec/00_scope.md R5),
are the definitions `Config.sbox`, `Config.rcon`, `Config.poly`, `Config.mixMatrix` of Machine/Tables.lean. -/

namespace Sys2Proof

/-- The five data registers that reset leaves unspecified (spec/10_state.md R32). -/
structure DataRegs where
  S : Word16
  RK0 : Word16
  RK1 : Word16
  RK2 : Word16
  T : Byte
  deriving DecidableEq, Repr, Inhabited

/-- Free value (DESIGN CHOICE, notes/assumptions/3.md, safe): what S, RK[0..2] and T hold after the `rst` input has acted.
The spec gives them no value ("they may keep old bits, be zero, or be anything", spec/70_reset_and_hazards.md R251). The first
argument counts the resets, so that each reset may leave other values; the second is what the registers held before. -/
opaque Config.unspecifiedData : Nat → DataRegs → DataRegs

/-- The open parameter LATENCY(op): clock cycles per command (spec/00_scope.md R5, spec/70_reset_and_hazards.md R259). No rule
reads it and the model has no clock, so no definition of the machine mentions it (notes/assumptions/10.md). -/
opaque Config.latency : Instr → Nat

end Sys2Proof
end

