-- ==== Sys2Proof/Machine/State.lean ====
section
/-! DEFINITION. The architectural state (spec/10_state.md R23 to R28, R32), the host's input samples (R31), the cause names
(spec/60_exceptions.md R211) and the state after reset. The S-Box and the round constants are constants, not state (R30), and there is no
program counter (R29) and no writable memory (spec/20_memory.md R50). -/

namespace Sys2Proof.Machine

/-- The five causes of InvalidInput (R211), in the order of their codes. The codes are `Cause.code` in Machine/Flags.lean. -/
inductive Cause where
  /-- The word matches no row of the opcode table; raised at decode. -/
  | illegalEncoding
  /-- `ARK` with IDX = 3. -/
  | keyIndex
  /-- An operation that reads S while SV = 0. -/
  | noState
  /-- An operation that reads a round key while KV = 0. -/
  | noKey
  /-- `STG` while STAGE = 3. -/
  | stageDone
  deriving DecidableEq, Repr

/-- One sample of the input ports, taken by one step (R31). -/
structure Input where
  /-- `rst`: reset request. -/
  rst : Bool
  /-- `cmd_valid`: a command is presented. -/
  cmdValid : Bool
  /-- `cmd`: the command word, read only when `cmd_valid` is 1. -/
  cmd : CmdWord
  deriving DecidableEq, Repr

/-- The state of one core and of the host's pending moves. -/
structure State where
  /-- The state register S: the block being encrypted (R23). -/
  S : Word16
  /-- RK[0] (R24). -/
  RK0 : Word16
  /-- RK[1] (R24). -/
  RK1 : Word16
  /-- RK[2] (R24). -/
  RK2 : Word16
  /-- The result register of SBX, ROT and GFM (R25). -/
  T : Byte
  /-- The stage counter; 3 is terminal (R26). -/
  STAGE : BitVec 2
  /-- S has been written since reset (R27). -/
  SV : Bool
  /-- RK[0..2] have been written since reset (R27). -/
  KV : Bool
  /-- T has been written since reset (R27). -/
  TV : Bool
  /-- A fault has been raised since reset: the core is locked (R28, R218). -/
  ERR : Bool
  /-- The code of that fault, 0 while ERR = 0 (R28). -/
  CAUSE : BitVec 3
  /-- The model's own field (DESIGN CHOICE, notes/assumptions/1.md, safe): what the host will drive on the input ports, one sample
  a step, oldest first. -/
  inputs : List Input
  /-- The model's own field (DESIGN CHOICE, notes/assumptions/4.md, safe): how often `rst` has acted, the argument that makes each
  reset's free values fresh. -/
  freeCount : Nat
  deriving DecidableEq, Repr

/-- Reasons for a machine stop. There are none: InvalidInput, the spec's one exception (R210), does not stop the machine but sets
ERR and CAUSE and leaves a locked core that keeps taking steps (R216, R218), so it is a next state. Nobody raises a stop; safe
(notes/assumptions/8.md). -/
inductive Fault
  deriving DecidableEq, Repr

/-- Reasons to give an instruction no meaning. -/
inductive Refusal where
  /-- Raised by an arm of `exec` whose instruction has no meaning yet. No arm raises it: every operation is modelled. Safe. -/
  | notModelled (mnemonic : String)
  deriving DecidableEq, Repr

/-- The machine right after reset, with no input pending (R32). STAGE, SV, KV, TV, ERR and CAUSE are the spec's values. The spec gives
S, RK[0..2] and T none: zero is the model's (DESIGN CHOICE, notes/assumptions/2.md, unsafe), and no obligation rests on it. -/
def State.reset : State where
  S := 0
  RK0 := 0
  RK1 := 0
  RK2 := 0
  T := 0
  STAGE := 0
  SV := false
  KV := false
  TV := false
  ERR := false
  CAUSE := 0
  inputs := []
  freeCount := 0

end Sys2Proof.Machine
end

