-- ==== Sys2Proof/Machine/Operands.lean ====
section
/-! DEFINITION. Slices and concatenations (spec/00_scope.md R6, R7), the 2×2 nibble matrices and their two packings
(R11, spec/10_state.md R21, R22), and the register operands. -/

namespace Sys2Proof.Machine

/-- hi(b) = b[7:4] (R7). -/
def hi (b : Byte) : Nibble := b.extractLsb' 4 4

/-- lo(b) = b[3:0] (R7). -/
def lo (b : Byte) : Nibble := b.extractLsb' 0 4

/-- byte0(D) = D[15:8], the high octet (R7). -/
def byte0 (d : Word16) : Byte := d.extractLsb' 8 8

/-- byte1(D) = D[7:0], the low octet (R7). -/
def byte1 (d : Word16) : Byte := d.extractLsb' 0 8

/-- nib(D, k): the k-th nibble from the most significant end (R7). -/
def nib (d : Word16) (k : Fin 4) : Nibble := d.extractLsb' (12 - 4 * k.val) 4

/-- Two nibbles as a byte, the first in the high half (R7). -/
def packByte (h l : Nibble) : Byte := h ++ l

/-- pack16(a,b) = a ‖ b (R10, spec/41_key_schedule.md R144). -/
def pack16 (a b : Byte) : Word16 := a ++ b

/-- Four nibbles as a word, the first most significant. -/
def packNibs (n0 n1 n2 n3 : Nibble) : Word16 := n0 ++ n1 ++ n2 ++ n3

/-- zext_8 of a nibble: `0b0000 ‖ n`, the layout of T for a nibble result (R6, spec/10_state.md R25). -/
def zextNibble (n : Nibble) : Byte := 0#4 ++ n

/-- A 2×2 matrix of nibbles, `m[row][col]` (R11, R20). -/
structure NibMatrix where
  m00 : Nibble
  m01 : Nibble
  m10 : Nibble
  m11 : Nibble
  deriving DecidableEq, Repr

/-- The State matrix of a data word, column by column: `st(D)[r][c] = nib(D, 2*c + r)` (R21). -/
def st (d : Word16) : NibMatrix := ⟨nib d 0, nib d 2, nib d 1, nib d 3⟩

/-- The inverse packing, `pack(m) = m[0][0] ‖ m[1][0] ‖ m[0][1] ‖ m[1][1]` (R21). -/
def pack (m : NibMatrix) : Word16 := packNibs m.m00 m.m10 m.m01 m.m11

/-- The matrix in which the source writes a key, row by row (R22). -/
def km (k : Word16) : NibMatrix := ⟨nib k 0, nib k 1, nib k 2, nib k 3⟩

/-- The round-key register RK[i]. There are exactly three; index 3 names none (R24), so the index is one of 0, 1, 2. -/
def State.rk (s : State) (i : Fin 3) : Word16 :=
  match i with
  | 0 => s.RK0
  | 1 => s.RK1
  | 2 => s.RK2

/-- The five data registers, as the free value of a reset takes them. -/
def State.dataRegs (s : State) : DataRegs := ⟨s.S, s.RK0, s.RK1, s.RK2, s.T⟩

end Sys2Proof.Machine
end

