-- ==== Sys2Proof/Machine/Flags.lean ====
section
/-! DEFINITION. The cause codes and the checks an operation makes on its index, the valid flags and STAGE
(spec/60_exceptions.md R211, spec/10_state.md R26 to R28). A check either passes or names the cause it raises; an operation makes
its checks in the order of their codes, so that the lowest code is the one reported (R215). The core has no arithmetic flags (R8). -/

namespace Sys2Proof.Machine

/-- The 3-bit code recorded in CAUSE (R211). -/
def Cause.code : Cause → BitVec 3
  | .illegalEncoding => 1
  | .keyIndex => 2
  | .noState => 3
  | .noKey => 4
  | .stageDone => 5

/-- One of 0, 1, 2 as a two-bit index or stage number gives it; `none` for 3. -/
def threeOf (i : BitVec 2) : Option (Fin 3) :=
  match i.toNat with
  | 0 => some 0
  | 1 => some 1
  | 2 => some 2
  | _ => none

/-- The round-key index of `ARK`: 3 raises KEY_INDEX (R168). -/
def requireIndex (idx : BitVec 2) : Except Cause (Fin 3) :=
  match threeOf idx with
  | some i => .ok i
  | none => .error .keyIndex

/-- S may be read when SV = 1 (R27); else NO_STATE. -/
def requireState (s : State) : Except Cause Unit :=
  if s.SV then .ok () else .error .noState

/-- RK[0..2] may be read when KV = 1 (R27); else NO_KEY. -/
def requireKey (s : State) : Except Cause Unit :=
  if s.KV then .ok () else .error .noKey

/-- The stage `STG` applies next; STAGE = 3 is terminal and raises STAGE_DONE (R26, R172). -/
def requireStage (s : State) : Except Cause (Fin 3) :=
  match threeOf s.STAGE with
  | some i => .ok i
  | none => .error .stageDone

end Sys2Proof.Machine
end

