-- ==== Sys2Proof/Machine/Ops.lean ====
section
/-! DEFINITION. The named operations on the registers: what the commands write, taking a fault
(spec/60_exceptions.md R216), reset (spec/70_reset_and_hazards.md R251), and the frame every command runs in. -/

namespace Sys2Proof.Machine

/-- `S <- v`. -/
def writeS (v : Word16) (s : State) : State := { s with S := v }

/-- A new block: `S <- v; SV <- 1; STAGE <- 0` (spec/42_round_pipeline.md R167). -/
def loadBlock (v : Word16) (s : State) : State := { s with S := v, SV := true, STAGE := 0 }

/-- `S <- v; STAGE <- g` (R172, R173). -/
def writeStage (v : Word16) (g : BitVec 2) (s : State) : State := { s with S := v, STAGE := g }

/-- `RK[0] <- k0; RK[1] <- k1; RK[2] <- k2; KV <- 1`, all together (spec/41_key_schedule.md R148). -/
def writeKeys (k0 k1 k2 : Word16) (s : State) : State :=
  { s with RK0 := k0, RK1 := k1, RK2 := k2, KV := true }

/-- `T <- v; TV <- 1` (spec/40_primitives.md R115 to R117). -/
def writeT (v : Byte) (s : State) : State := { s with T := v, TV := true }

/-- `raise InvalidInput(c)`: ERR and CAUSE are written and nothing else; no handler is entered and nothing is saved (R216). -/
def raise (c : Cause) (s : State) : State := { s with ERR := true, CAUSE := c.code }

/-- What the `rst` input does (spec/10_state.md R32, R251). It is the only way out of the locked state (R219): the core has no
return from a fault. S, RK[0..2] and T take the free values of `Config.unspecifiedData` (notes/assumptions/3.md); the host's pending
moves are not the core's and stay. -/
def assertReset (s : State) : State :=
  let d := Config.unspecifiedData s.freeCount s.dataRegs
  { S := d.S, RK0 := d.RK0, RK1 := d.RK1, RK2 := d.RK2, T := d.T,
    STAGE := 0, SV := false, KV := false, TV := false, ERR := false, CAUSE := 0,
    inputs := s.inputs, freeCount := s.freeCount + 1 }

/-- The host's pending moves become `l`; the core's registers stay. -/
def setInputs (l : List Input) (s : State) : State := { s with inputs := l }

/-- How every command runs. A locked core does nothing (R218, spec/10_state.md R35). Otherwise the command either completes with
all its writes or raises one fault with none of them (R216). -/
def runCommand (s : State) (result : Except Cause State) : Host.Outcome State Fault Refusal :=
  if s.ERR then .next s
  else
    match result with
    | .ok t => .next t
    | .error c => .next (raise c s)

end Sys2Proof.Machine
end

