-- ==== Sys2Proof/Machine/Tables.lean ====
section
/-! DEFINITION. The constants of the configuration: the two ROMs (spec/20_memory.md R50 to R58), the polynomial and the mix
matrix (spec/00_scope.md R5). They are named under Config, as R5 asks, and stand in this file because their contents are what a
test could show wrong (UNVERIFIED, notes/assumptions/6.md, unsafe: the spec itself takes the contents of both ROMs from general
knowledge). Nothing writes them (R58). -/

namespace Sys2Proof

/-- The S-Box: four rows of four nibbles (R52). -/
def Config.sbox : Vector (Vector Nibble 4) 4 :=
  #v[#v[0x9, 0x4, 0xA, 0xB],
     #v[0xD, 0x1, 0x8, 0x5],
     #v[0x6, 0x2, 0x0, 0x3],
     #v[0xC, 0xE, 0xF, 0x7]]

/-- The two round constants (R53). -/
def Config.rcon : Vector Byte 2 := #v[0x80, 0x30]

/-- The irreducible polynomial x^4 + x + 1 (R5, spec/40_primitives.md R112). -/
def Config.poly : BitVec 5 := 0b10011

/-- The mix matrix [[1,4],[4,1]] (R5, spec/42_round_pipeline.md R163). -/
def Config.mixMatrix : Machine.NibMatrix := ⟨1, 4, 4, 1⟩

namespace Machine

/-- RomRead(SBOX, a): row a[3:2], column a[1:0] (R9, R51). -/
def romReadSbox (a : Nibble) : Nibble :=
  (Config.sbox.get (a.extractLsb' 2 2).toFin).get (a.extractLsb' 0 2).toFin

/-- RomRead(RCON, i): the 8-bit cell i (R9, R53). -/
def romReadRcon (i : Fin 2) : Byte := Config.rcon.get i

end Machine

end Sys2Proof
end

