-- ==== Sys2Proof/Machine/Primitives.lean ====
section
/-! DEFINITION. The finite-field and table primitives and their three operations SBX, ROT, GFM
(spec/40_primitives.md). -/

namespace Sys2Proof.Machine

/-- SBoxLookup (R110). -/
def sBoxLookup (n : Nibble) : Nibble := romReadSbox n

/-- RotNib: swap the nibbles of a byte (R111). -/
def rotNib (b : Byte) : Byte := packByte (lo b) (hi b)

/-- Multiplication by x: shift left within 4 bits and, when the bit shifted out is 1, xor the low bits of the polynomial
(R112). -/
def xtime (a : Nibble) : Nibble :=
  if a.getLsbD 3 then (a <<< 1) ^^^ Config.poly.extractLsb' 0 4 else a <<< 1

/-- GFMul: the product in GF(2^4), as the sum of the multiples of `a` that the bits of `b` select (R112). -/
def gfMul (a b : Nibble) : Nibble :=
  (if b.getLsbD 0 then a else 0) ^^^
  (if b.getLsbD 1 then xtime a else 0) ^^^
  (if b.getLsbD 2 then xtime (xtime a) else 0) ^^^
  (if b.getLsbD 3 then xtime (xtime (xtime a)) else 0)

/-- The carry-less product of two nibbles, 7 bits (R112). -/
def carrylessMul (a b : Nibble) : BitVec 7 :=
  (if b.getLsbD 0 then a.setWidth 7 else 0) ^^^
  (if b.getLsbD 1 then a.setWidth 7 <<< 1 else 0) ^^^
  (if b.getLsbD 2 then a.setWidth 7 <<< 2 else 0) ^^^
  (if b.getLsbD 3 then a.setWidth 7 <<< 3 else 0)

/-- One reduction step: if bit i is 1, xor the polynomial shifted left by i - 4 (R112). -/
def reduceBit (p : BitVec 7) (i : Nat) : BitVec 7 :=
  if p.getLsbD i then p ^^^ (Config.poly.setWidth 7 <<< (i - 4)) else p

/-- The second procedure of R112: the carry-less product, reduced at bits 6, 5, 4 in that order. -/
def gfMulByReduction (a b : Nibble) : Nibble :=
  (reduceBit (reduceBit (reduceBit (carrylessMul a b) 6) 5) 4).setWidth 4

/-- Mul4, multiplication by x^2 (R113). -/
def mul4 (n : Nibble) : Nibble := gfMul 4 n

/-- SubByte: both nibbles through the S-Box, the high one staying high (R120). -/
def subByte (b : Byte) : Byte := packByte (sBoxLookup (hi b)) (sBoxLookup (lo b))

/-- SBX (R115). -/
def execSbx (n : Nibble) (s : State) : Host.Outcome State Fault Refusal :=
  runCommand s (.ok (writeT (zextNibble (sBoxLookup n)) s))

/-- ROT (R116). -/
def execRot (b : Byte) (s : State) : Host.Outcome State Fault Refusal :=
  runCommand s (.ok (writeT (rotNib b) s))

/-- GFM (R117). -/
def execGfm (a b : Nibble) (s : State) : Host.Outcome State Fault Refusal :=
  runCommand s (.ok (writeT (zextNibble (gfMul a b)) s))

end Sys2Proof.Machine
end

