-- ==== Sys2Proof/Machine/KeySchedule.lean ====
section
/-! DEFINITION. The key schedule and its operation KEX (spec/41_key_schedule.md). -/

namespace Sys2Proof.Machine

/-- G: rotate the nibbles, substitute them, xor the round constant, in that order (R142). -/
def g (w : Byte) (i : Fin 2) : Byte := subByte (rotNib w) ^^^ romReadRcon i

/-- The three round keys (R144). -/
structure RoundKeys where
  k0 : Word16
  k1 : Word16
  k2 : Word16
  deriving DecidableEq, Repr

/-- KeyExpand (R140 to R144). The key word is primary: w0 is its high byte (spec/90_conflicts.md C1, R141). -/
def keyExpand (k : Word16) : RoundKeys :=
  let w0 := byte0 k
  let w1 := byte1 k
  let w2 := w0 ^^^ g w1 0
  let w3 := w1 ^^^ w2
  let w4 := w2 ^^^ g w3 1
  let w5 := w3 ^^^ w4
  ⟨pack16 w0 w1, pack16 w2 w3, pack16 w4 w5⟩

/-- KEX (R148). -/
def execKex (k : Word16) (s : State) : Host.Outcome State Fault Refusal :=
  let r := keyExpand k
  runCommand s (.ok (writeKeys r.k0 r.k1 r.k2 s))

end Sys2Proof.Machine
end

