-- ==== Sys2Proof/Machine/Pipeline.lean ====
section
/-! DEFINITION. The round pipeline and its operations LDS, ARK, SUB, SHR, MIX, STG, ENC (spec/42_round_pipeline.md). -/

namespace Sys2Proof.Machine

/-- AddKey: the 16-bit xor (R160). -/
def addKey (d k : Word16) : Word16 := d ^^^ k

/-- SubNib: each nibble through the S-Box, none moves (R161; spec/90_conflicts.md C2). -/
def subNib (d : Word16) : Word16 :=
  packNibs (sBoxLookup (nib d 0)) (sBoxLookup (nib d 1)) (sBoxLookup (nib d 2)) (sBoxLookup (nib d 3))

/-- ShiftRow: the row-1 cells change columns (R162). -/
def shiftRow (d : Word16) : Word16 := packNibs (nib d 0) (nib d 3) (nib d 2) (nib d 1)

/-- The top cell of the mix matrix times the column (a, b) (R163). -/
def mixTop (a b : Nibble) : Nibble := gfMul Config.mixMatrix.m00 a ^^^ gfMul Config.mixMatrix.m01 b

/-- The bottom cell of the mix matrix times the column (a, b) (R163). -/
def mixBottom (a b : Nibble) : Nibble := gfMul Config.mixMatrix.m10 a ^^^ gfMul Config.mixMatrix.m11 b

/-- MixCol: each column is multiplied by the mix matrix (R163). -/
def mixCol (d : Word16) : Word16 :=
  packNibs (mixTop (nib d 0) (nib d 1)) (mixBottom (nib d 0) (nib d 1))
    (mixTop (nib d 2) (nib d 3)) (mixBottom (nib d 2) (nib d 3))

/-- Stage i of a block, i in 0, 1, 2 (R164). There is no stage 3. -/
def stage (i : Fin 3) (d k0 k1 k2 : Word16) : Word16 :=
  match i with
  | 0 => addKey d k0
  | 1 => addKey (mixCol (shiftRow (subNib d))) k1
  | 2 => addKey (shiftRow (subNib d)) k2

/-- EncryptBlock: stages 0, 1, 2 in order (R165). -/
def encryptBlock (p k0 k1 k2 : Word16) : Word16 :=
  stage 2 (stage 1 (stage 0 p k0 k1 k2) k0 k1 k2) k0 k1 k2

/-- LDS (R167). -/
def execLds (p : Word16) (s : State) : Host.Outcome State Fault Refusal :=
  runCommand s (.ok (loadBlock p s))

/-- ARK (R168). -/
def execArk (idx : BitVec 2) (s : State) : Host.Outcome State Fault Refusal :=
  runCommand s do
    let i ← requireIndex idx
    requireState s
    requireKey s
    return writeS (addKey s.S (s.rk i)) s

/-- SUB (R169). -/
def execSub (s : State) : Host.Outcome State Fault Refusal :=
  runCommand s do
    requireState s
    return writeS (subNib s.S) s

/-- SHR (R170). -/
def execShr (s : State) : Host.Outcome State Fault Refusal :=
  runCommand s do
    requireState s
    return writeS (shiftRow s.S) s

/-- MIX (R171). -/
def execMix (s : State) : Host.Outcome State Fault Refusal :=
  runCommand s do
    requireState s
    return writeS (mixCol s.S) s

/-- STG (R172). -/
def execStg (s : State) : Host.Outcome State Fault Refusal :=
  runCommand s do
    requireState s
    requireKey s
    let i ← requireStage s
    return writeStage (stage i s.S s.RK0 s.RK1 s.RK2) (s.STAGE + 1) s

/-- ENC (R173). -/
def execEnc (s : State) : Host.Outcome State Fault Refusal :=
  runCommand s do
    requireState s
    requireKey s
    return writeStage (encryptBlock s.S s.RK0 s.RK1 s.RK2) 3 s

end Sys2Proof.Machine
end

