-- ==== Sys2Proof/Machine/System.lean ====
section
/-! DEFINITION. The idle command (spec/43_system.md R200). The core has no other system operation (R202). -/

namespace Sys2Proof.Machine

/-- NOP: no register, flag or port changes (R200). -/
def execNop (s : State) : Host.Outcome State Fault Refusal := runCommand s (.ok s)

end Sys2Proof.Machine
end

