-- ==== Sys2Proof/Machine/Dispatch.lean ====
section
/-! DEFINITION. Execution of one decoded command: one arm per operation of spec/opcode_table.json. -/

namespace Sys2Proof.Machine

def exec (i : Instr) (s : State) : Host.Outcome State Fault Refusal :=
  match i with
  | .nop => Sys2Proof.Machine.execNop s
  | .lds imm => Sys2Proof.Machine.execLds imm s
  | .kex imm => Sys2Proof.Machine.execKex imm s
  | .ark idx => Sys2Proof.Machine.execArk idx s
  | .sub => Sys2Proof.Machine.execSub s
  | .shr => Sys2Proof.Machine.execShr s
  | .mix => Sys2Proof.Machine.execMix s
  | .stg => Sys2Proof.Machine.execStg s
  | .enc => Sys2Proof.Machine.execEnc s
  | .sbx n => Sys2Proof.Machine.execSbx n s
  | .rot b => Sys2Proof.Machine.execRot b s
  | .gfm a b => Sys2Proof.Machine.execGfm a b s

end Sys2Proof.Machine
end

