-- ==== Sys2Proof/Machine/Commands.lean ====
section
/-! DEFINITION. What one step does with the input ports: the locked core, decoding, the illegal word, reset, and the idle
step (spec/30_encoding.md R87, spec/60_exceptions.md R218, spec/70_reset_and_hazards.md R252), and command lists as the host's
input (R260). -/

namespace Sys2Proof.Machine

/-- A presented command word. A locked core does not even decode it; a word that is no command raises InvalidInput(1) (R87). -/
def executeWord (w : CmdWord) (s : State) : Host.Outcome State Fault Refusal :=
  if s.ERR then .next s
  else
    match decode w with
    | .ok i => exec i s
    | .error _ => .next (raise .illegalEncoding s)

/-- One sample of the input ports. `rst` wins and the command presented with it is dropped (R252); with no command the core keeps its
state (spec/60_exceptions.md R226; DEDUCED, notes/assumptions/1.md). -/
def actOn (p : Input) (s : State) : Host.Outcome State Fault Refusal :=
  if p.rst then .next (assertReset s)
  else if p.cmdValid then executeWord p.cmd s
  else .next s

/-- The step: take the oldest pending sample and act on it. When the host drives nothing the core keeps its state (R226). -/
def takeInput (s : State) : Host.Outcome State Fault Refusal :=
  match s.inputs with
  | [] => .next s
  | p :: rest => actOn p (setInputs rest s)

/-- The sample that presents one command word. -/
def commandInput (w : CmdWord) : Input := ⟨false, true, w⟩

/-- The sample that asserts `rst` alone. -/
def resetInput : Input := ⟨true, false, 0⟩

/-- The host presents the list of command words next, in order, before whatever else it has pending (R260). -/
def present (ws : List CmdWord) (s : State) : State :=
  setInputs (ws.map commandInput ++ s.inputs) s

/-- A list of decoded commands, executed in order (spec/20_memory.md R59). -/
def execAll : List Instr → State → Host.Outcome State Fault Refusal
  | [], s => .next s
  | i :: is, s =>
    match exec i s with
    | .next t => execAll is t
    | .fault r => .fault r
    | .refused r => .refused r

end Sys2Proof.Machine
end

