-- ==== Sys2Proof/Machine/Step.lean ====
section
/-! DEFINITION. One step of the machine, and the placing of a command word where the next step takes it. -/

namespace Sys2Proof.Machine

/-- One step: the oldest pending sample of the input ports is taken and acted on (spec/10_state.md R34). -/
def step (s : State) : Host.Outcome State Fault Refusal := takeInput s

/-- The state in which the host presents the given word next. The core fetches nothing (spec/10_state.md R29): its next instruction
is the command word on the port (notes/assumptions/7.md). -/
def State.withFetchWord (s : State) (nbits w : Nat) : State := present [tableWord nbits w] s

end Sys2Proof.Machine
end

