-- ==== Sys2Proof/Machine/Asm.lean ====
section
/-! DEFINITION. The assembler's syntax (spec/30_encoding.md R89): one command a line, a mnemonic and its operands, `#` before an
immediate, a bare index for `ARK`, `;` before a comment. What R89 leaves open of the text is fixed as notes/assumptions/9.md says
(DESIGN CHOICE, safe): mnemonics in capitals, hexadecimal digits in either case after `0x`, blanks between tokens. There are no
pseudo-instructions (R90). -/

namespace Sys2Proof.Machine

/-- The command an assembler-level command stands for, if its operands fit (R89). -/
def assemble (c : AsmCmd) : Option Instr :=
  if c.wellFormed then
    some <| match c with
      | .nop => .nop
      | .lds imm => .lds (BitVec.ofNat 16 imm)
      | .kex imm => .kex (BitVec.ofNat 16 imm)
      | .ark idx => .ark (BitVec.ofNat 2 idx)
      | .sub => .sub
      | .shr => .shr
      | .mix => .mix
      | .stg => .stg
      | .enc => .enc
      | .sbx n => .sbx (BitVec.ofNat 4 n)
      | .rot b => .rot (BitVec.ofNat 8 b)
      | .gfm a b => .gfm (BitVec.ofNat 4 a) (BitVec.ofNat 4 b)
  else none

/-- The value of one digit, hexadecimal digits included. -/
def digitValue (c : Char) : Option Nat :=
  if '0' ≤ c ∧ c ≤ '9' then some (c.toNat - '0'.toNat)
  else if 'a' ≤ c ∧ c ≤ 'f' then some (c.toNat - 'a'.toNat + 10)
  else if 'A' ≤ c ∧ c ≤ 'F' then some (c.toNat - 'A'.toNat + 10)
  else none

/-- Digits of the given base, most significant first, after the value `acc`. -/
def digitsValue (base : Nat) : List Char → Nat → Option Nat
  | [], acc => some acc
  | c :: cs, acc =>
    match digitValue c with
    | some d => if d < base then digitsValue base cs (acc * base + d) else none
    | none => none

/-- A hexadecimal number after `0x`, else a decimal number (R89). -/
def parseNumber : List Char → Option Nat
  | [] => none
  | '0' :: 'x' :: [] => none
  | '0' :: 'x' :: cs => digitsValue 16 cs 0
  | cs => digitsValue 10 cs 0

/-- An immediate: `#` and a number (R89). -/
def parseImm : List Char → Option Nat
  | '#' :: cs => parseNumber cs
  | _ => none

/-- The characters before a comment (R89). -/
def dropComment (cs : List Char) : List Char := cs.takeWhile (· ≠ ';')

/-- The tokens of a line: blanks separate them and are dropped, a comma is a token of its own. `cur` holds the token being read, last
character first. -/
def tokens : List Char → List Char → List (List Char)
  | [], [] => []
  | [], cur => [cur.reverse]
  | c :: cs, cur =>
    let done := if cur.isEmpty then [] else [cur.reverse]
    if c = ' ' ∨ c = '\t' then done ++ tokens cs []
    else if c = ',' then done ++ [','] :: tokens cs []
    else tokens cs (c :: cur)

/-- The command a token list writes, its operands not yet checked (R89). -/
def parseTokens : List (List Char) → Option AsmCmd
  | [['N', 'O', 'P']] => some .nop
  | [['S', 'U', 'B']] => some .sub
  | [['S', 'H', 'R']] => some .shr
  | [['M', 'I', 'X']] => some .mix
  | [['S', 'T', 'G']] => some .stg
  | [['E', 'N', 'C']] => some .enc
  | [['L', 'D', 'S'], x] => (parseImm x).map .lds
  | [['K', 'E', 'X'], x] => (parseImm x).map .kex
  | [['A', 'R', 'K'], x] => (parseNumber x).map .ark
  | [['S', 'B', 'X'], x] => (parseImm x).map .sbx
  | [['R', 'O', 'T'], x] => (parseImm x).map .rot
  | [['G', 'F', 'M'], x, [','], y] =>
    match parseImm x, parseImm y with
    | some a, some b => some (.gfm a b)
    | _, _ => none
  | _ => none

/-- What one line of assembler text is. -/
inductive AsmLine where
  /-- Nothing but blanks and a comment. -/
  | blank
  /-- A command and its canonical word. -/
  | word (w : CmdWord)
  /-- Not a command, or an operand that does not fit its field: the assembler rejects it. -/
  | rejected
  deriving DecidableEq, Repr

/-- Assemble one line (R89). -/
def assembleLine (cs : List Char) : AsmLine :=
  match tokens (dropComment cs) [] with
  | [] => .blank
  | ts =>
    match (parseTokens ts).bind assemble with
    | some i => .word (encode i)
    | none => .rejected

end Sys2Proof.Machine
end

