-- ==== Sys2Proof/Machine/Ports.lean ====
section
/-! DEFINITION. The output ports (spec/10_state.md R31). A data port has a meaning only while its valid flag is 1: before that the
spec calls it unspecified and forbids giving it one, so it reads `none` (spec/93_implementation_defined.md U1; DESIGN CHOICE,
notes/assumptions/5.md, safe). -/

namespace Sys2Proof.Machine

/-- What the host reads between two steps. -/
structure Ports where
  sOut : Option Word16
  rk0Out : Option Word16
  rk1Out : Option Word16
  rk2Out : Option Word16
  tOut : Option Byte
  stageOut : BitVec 2
  sv : Bool
  kv : Bool
  tv : Bool
  err : Bool
  cause : BitVec 3
  deriving DecidableEq, Repr

/-- A data port: the register while its valid flag is 1, no meaning while it is 0 (R31). -/
def guarded (flag : Bool) {w : Nat} (v : BitVec w) : Option (BitVec w) := if flag then some v else none

/-- The ports of a state (R31). -/
def State.ports (s : State) : Ports where
  sOut := guarded s.SV s.S
  rk0Out := guarded s.KV s.RK0
  rk1Out := guarded s.KV s.RK1
  rk2Out := guarded s.KV s.RK2
  tOut := guarded s.TV s.T
  stageOut := s.STAGE
  sv := s.SV
  kv := s.KV
  tv := s.TV
  err := s.ERR
  cause := s.CAUSE

end Sys2Proof.Machine
end

