-- ==== Sys2Proof/Safety.lean ====
section
/-! DEFINITION. The terms the claims are stated in: a good end of a run (spec/60_exceptions.md R217), the invariants of the
registers (spec/10_state.md R33, spec/60_exceptions.md R215), and what a command may read, decide and write (R35, R211). -/

namespace Sys2Proof.Machine

/-- A run has not gone wrong: ERR = 0 (R217, spec/70_reset_and_hazards.md R260). -/
def State.good (s : State) : Prop := s.ERR = false

/-- ERR = 0 exactly when CAUSE = 0, and CAUSE is one of 0 to 5 (R33 b, c). -/
def FaultRegsInv (s : State) : Prop := (s.ERR = false ↔ s.CAUSE = 0) ∧ s.CAUSE.toNat ≤ 5

/-- STAGE leaves 0 only through `STG` or `ENC`, which need both valid flags (R215). -/
def StageInv (s : State) : Prop := s.STAGE ≠ 0 → s.SV = true ∧ s.KV = true

/-- The locked core still shows what was wrong: NO_STATE with SV = 0, NO_KEY with SV = 1 and KV = 0, STAGE_DONE with STAGE = 3 and both
flags 1 (R211, R216, R218). -/
def DiagnosisInv (s : State) : Prop :=
  (s.CAUSE = 3 → s.SV = false) ∧ (s.CAUSE = 4 → s.SV = true ∧ s.KV = false) ∧
    (s.CAUSE = 5 → s.STAGE = 3 ∧ s.SV = true ∧ s.KV = true)

/-- The status registers are consistent. -/
def StatusInv (s : State) : Prop := FaultRegsInv s ∧ StageInv s ∧ DiagnosisInv s

/-- While KV = 1 the three round keys are the expansion of one master key, which is RK[0] (R24, spec/41_key_schedule.md R144, R148). -/
def KeyInv (s : State) : Prop :=
  s.KV = true → s.RK1 = (keyExpand s.RK0).k1 ∧ s.RK2 = (keyExpand s.RK0).k2

/-- Two states the host cannot tell apart: the same ports and the same pending moves. They may differ in data registers whose
valid flag is 0 (spec/93_implementation_defined.md U1, U2). -/
def Indistinguishable (s t : State) : Prop := s.ports = t.ports ∧ s.inputs = t.inputs

/-- The operations that read S, and so need SV = 1 (R27, R35). -/
def readsS : Instr → Bool
  | .ark _ | .sub | .shr | .mix | .stg | .enc => true
  | .nop | .lds _ | .kex _ | .sbx _ | .rot _ | .gfm _ _ => false

/-- The operations that read a round key, and so need KV = 1 (R27, R35). -/
def readsKeys : Instr → Bool
  | .ark _ | .stg | .enc => true
  | .nop | .lds _ | .kex _ | .sub | .shr | .mix | .sbx _ | .rot _ | .gfm _ _ => false

/-- The operations that write S (R35). -/
def writesS : Instr → Bool
  | .lds _ | .ark _ | .sub | .shr | .mix | .stg | .enc => true
  | .nop | .kex _ | .sbx _ | .rot _ | .gfm _ _ => false

/-- The operation that writes RK[0..2] and KV (R24, R35). -/
def writesKeys : Instr → Bool
  | .kex _ => true
  | .nop | .lds _ | .ark _ | .sub | .shr | .mix | .stg | .enc | .sbx _ | .rot _ | .gfm _ _ => false

/-- The operations that write T and TV (R25, R35). -/
def writesT : Instr → Bool
  | .sbx _ | .rot _ | .gfm _ _ => true
  | .nop | .lds _ | .kex _ | .ark _ | .sub | .shr | .mix | .stg | .enc => false

/-- The operations that write STAGE (R26, R35). -/
def writesStage : Instr → Bool
  | .lds _ | .stg | .enc => true
  | .nop | .kex _ | .ark _ | .sub | .shr | .mix | .sbx _ | .rot _ | .gfm _ _ => false

/-- The operation that writes SV (R27, R35). -/
def writesSV : Instr → Bool
  | .lds _ => true
  | .nop | .kex _ | .ark _ | .sub | .shr | .mix | .stg | .enc | .sbx _ | .rot _ | .gfm _ _ => false

end Sys2Proof.Machine
end

