-- ==== Sys2Proof/Certificates/Slice0/Obligations.lean ====
section
/-! DEFINITION. The statements for the provers. Each docstring names what of spec/ the statement formalises. Where a title or a
docstring says "derived", the spec marks the sentence as its own inference, or the statement joins several rules. -/

open Sys2Proof Sys2Proof.Machine

/-! ### Encoding -/

/-- One word of each family, written from the fields OPC(4) IDX(2) RSV(2) IMM(16) of spec/30_encoding.md R82. -/
def Obligations.DecodedWordsFromTheSpec : Prop :=
  decode 0b0000_00_00_0000000000000000 = .ok .nop ∧
  decode 0b0001_00_00_1010011101001001 = .ok (.lds 0xa749) ∧
  decode 0b0010_00_00_0010110101010101 = .ok (.kex 0x2d55) ∧
  decode 0b0011_10_00_1011111011101111 = .ok (.ark 2) ∧
  decode 0b0111_00_00_0000000000000000 = .ok .stg ∧
  decode 0b1001_00_00_1111111111111000 = .ok (.sbx 8) ∧
  decode 0b1010_00_00_1010101100101101 = .ok (.rot 0x2d) ∧
  decode 0b1011_00_00_0000000001001100 = .ok (.gfm 0x4 0xc)

/-- A step of an unlocked core on a presented word runs the decoded command on the state without that sample. -/
def Obligations.StepRunsTheDecodedCommand : Prop :=
  ∀ (s : State) (rest : List Input) (w : CmdWord) (i : Instr),
    s.inputs = ⟨false, true, w⟩ :: rest → s.ERR = false → decode w = .ok i →
      step s = exec i { s with inputs := rest }

/-- The decoding procedure, R87: a locked core does not decode; a word that matches no row raises InvalidInput(1); otherwise
the matching row is unique and names the operation that runs. -/
def Obligations.DecodingProcedure : Prop :=
  ∀ (s : State) (rest : List Input) (w : CmdWord), s.inputs = ⟨false, true, w⟩ :: rest →
    (s.ERR = true → step s = .next { s with inputs := rest }) ∧
    (s.ERR = false → (∀ r ∈ opcodeTable, w &&& r.mask ≠ r.value) →
      step s = .next { s with inputs := rest, ERR := true, CAUSE := 1 }) ∧
    (∀ r ∈ opcodeTable, w &&& r.mask = r.value →
      (∀ r' ∈ opcodeTable, w &&& r'.mask = r'.value → r' = r) ∧
      ∃ i, decode w = .ok i ∧ i.mnemonic = r.mnemonic ∧
        (s.ERR = false → step s = exec i { s with inputs := rest }))

/-- Illegal encodings, R85: a word is legal exactly when it matches a row, that is when OPC is at most 0xB, RSV is 0 and IDX is 0
outside ARK; every other word raises cause 1; `ARK` with IDX = 3 is legal and raises cause 2; 983040 words are legal. -/
def Obligations.LegalEncodings : Prop :=
  (∀ w : CmdWord, (∃ i, decode w = .ok i) ↔ ∃ r ∈ opcodeTable, w &&& r.mask = r.value) ∧
  (∀ w : CmdWord, (∃ i, decode w = .ok i) ↔
    (w.extractLsb' 20 4).toNat ≤ 0xB ∧ w.extractLsb' 16 2 = 0#2 ∧
      (w.extractLsb' 18 2 = 0#2 ∨ w.extractLsb' 20 4 = 0x3#4)) ∧
  (∀ (s : State) (rest : List Input) (w : CmdWord),
    s.inputs = ⟨false, true, w⟩ :: rest → s.ERR = false →
      (¬ (∃ i, decode w = .ok i) → step s = .next { s with inputs := rest, ERR := true, CAUSE := 1 }) ∧
      (w &&& 0xFF0000 = 0x3C0000 → step s = .next { s with inputs := rest, ERR := true, CAUSE := 2 })) ∧
  ((List.range (2 ^ 24)).filter fun n => (decode (BitVec.ofNat 24 n)).toBool).length = 983040

/-- The reserved opcodes 0xC to 0xF raise cause 1 whatever the other 20 bits, R201. -/
def Obligations.ReservedOpcodesFault : Prop :=
  ∀ (s : State) (rest : List Input) (w : CmdWord),
    s.inputs = ⟨false, true, w⟩ :: rest → s.ERR = false → 0xC ≤ (w.extractLsb' 20 4).toNat →
      step s = .next { s with inputs := rest, ERR := true, CAUSE := 1 }

/-- Derived: decoding the canonical word of a command gives the command back, at every value of every operand. -/
def Obligations.EncodeThenDecode : Prop :=
  ∀ i : Instr, decode (encode i) = .ok i

/-- Derived (30_encoding.md, operand assembly and canonical encoding): the canonical word of a decoded word is the word with its ignored bits cleared, and a word
that agrees with it on the other bits is the same command. -/
def Obligations.DecodeThenEncodeIsCanonical : Prop :=
  ∀ (w : CmdWord) (i : Instr), decode w = .ok i →
    encode i = w &&& i.usedBits ∧
    ∀ w' : CmdWord, w' &&& i.usedBits = w &&& i.usedBits → decode w' = .ok i

/-- Derived (30_encoding.md, assembler syntax and canonical encoding): the assembler takes exactly the operands that fit, and the number of the word it emits carries each of them at its
place. -/
def Obligations.AssembledWordNumber : Prop :=
  (∀ n, (n < 65536 → (assemble (.lds n)).map (fun i => (encode i).toNat) = some (0x100000 + n)) ∧
    (65536 ≤ n → assemble (.lds n) = none)) ∧
  (∀ n, (n < 65536 → (assemble (.kex n)).map (fun i => (encode i).toNat) = some (0x200000 + n)) ∧
    (65536 ≤ n → assemble (.kex n) = none)) ∧
  (∀ n, (n < 4 → (assemble (.ark n)).map (fun i => (encode i).toNat) = some (0x300000 + 0x40000 * n)) ∧
    (4 ≤ n → assemble (.ark n) = none)) ∧
  (∀ n, (n < 16 → (assemble (.sbx n)).map (fun i => (encode i).toNat) = some (0x900000 + n)) ∧
    (16 ≤ n → assemble (.sbx n) = none)) ∧
  (∀ n, (n < 256 → (assemble (.rot n)).map (fun i => (encode i).toNat) = some (0xA00000 + n)) ∧
    (256 ≤ n → assemble (.rot n) = none)) ∧
  (∀ a b, (a < 16 → b < 16 →
      (assemble (.gfm a b)).map (fun i => (encode i).toNat) = some (0xB00000 + 16 * a + b)) ∧
    (16 ≤ a ∨ 16 ≤ b → assemble (.gfm a b) = none))

/-! ### The operations, one rule each

In each, the words that match the row decode to the operation, and an equation gives the next state: the registers it does not name
are unchanged. -/

/-- NOP, R200. It changes nothing, locked or not. -/
def Obligations.NopRule : Prop :=
  encode .nop = 0x000000 ∧
  (∀ w : CmdWord, w &&& 0xFF0000 = 0x000000 → decode w = .ok .nop) ∧
  ∀ s : State, exec .nop s = .next s

/-- LDS, R167. -/
def Obligations.LdsRule : Prop :=
  (∀ w : CmdWord, w &&& 0xFF0000 = 0x100000 → decode w = .ok (.lds (w.extractLsb' 0 16))) ∧
  ∀ (s : State) (p : Word16), s.ERR = false →
    exec (.lds p) s = .next { s with S := p, SV := true, STAGE := 0 }

/-- KEX, R148: the round keys are those of KeyExpand, at any time, and nothing else but KV changes. -/
def Obligations.KexRule : Prop :=
  (∀ w : CmdWord, w &&& 0xFF0000 = 0x200000 → decode w = .ok (.kex (w.extractLsb' 0 16))) ∧
  (∀ (s : State) (k : Word16), s.ERR = false →
    exec (.kex k) s = .next
      { s with RK0 := k, RK1 := (keyExpand k).k1, RK2 := (keyExpand k).k2, KV := true }) ∧
  (∀ (s : State), s.ERR = false →
    exec (.kex 0x2d55) s = .next { s with RK0 := 0x2d55, RK1 := 0xbce9, RK2 := 0xa34a, KV := true })

/-- ARK, R168, with its three faults in their order. -/
def Obligations.ArkRule : Prop :=
  (∀ w : CmdWord, w &&& 0xF30000 = 0x300000 → decode w = .ok (.ark (w.extractLsb' 18 2))) ∧
  ∀ s : State, s.ERR = false →
    exec (.ark 3) s = .next { s with ERR := true, CAUSE := 2 } ∧
    (∀ i : BitVec 2, i ≠ 3 → s.SV = false →
      exec (.ark i) s = .next { s with ERR := true, CAUSE := 3 }) ∧
    (∀ i : BitVec 2, i ≠ 3 → s.SV = true → s.KV = false →
      exec (.ark i) s = .next { s with ERR := true, CAUSE := 4 }) ∧
    (s.SV = true → s.KV = true →
      exec (.ark 0) s = .next { s with S := s.S ^^^ s.RK0 } ∧
      exec (.ark 1) s = .next { s with S := s.S ^^^ s.RK1 } ∧
      exec (.ark 2) s = .next { s with S := s.S ^^^ s.RK2 } ∧
      ∀ (i : BitVec 2) (t : State), i ≠ 3 → exec (.ark i) s = .next t → exec (.ark i) t = .next s)

/-- SUB, R169. -/
def Obligations.SubRule : Prop :=
  (∀ w : CmdWord, w &&& 0xFF0000 = 0x400000 → decode w = .ok .sub) ∧
  (∀ s : State, s.ERR = false →
    (s.SV = false → exec .sub s = .next { s with ERR := true, CAUSE := 3 }) ∧
    (s.SV = true → exec .sub s = .next { s with S := subNib s.S })) ∧
  subNib 0x0000 = 0x9999 ∧ subNib 0xffff = 0x7777 ∧ subNib 0xcccc = 0xcccc ∧ subNib 0xaaaa = 0x0000 ∧
  subNib 0x8a1c = 0x604c

/-- SHR, R170; two in a row restore S. -/
def Obligations.ShrRule : Prop :=
  (∀ w : CmdWord, w &&& 0xFF0000 = 0x500000 → decode w = .ok .shr) ∧
  ∀ s : State, s.ERR = false →
    (s.SV = false → exec .shr s = .next { s with ERR := true, CAUSE := 3 }) ∧
    (s.SV = true →
      exec .shr s = .next { s with S := shiftRow s.S } ∧
      exec .shr { s with S := shiftRow s.S } = .next s ∧
      (nib s.S 1 = nib s.S 3 → exec .shr s = .next s)) ∧
    (s.SV = true → s.S = 0x604c → exec .shr s = .next { s with S := 0x6c40 })

/-- MIX, R171, with its corner values; two `MIX` in a row restore no S but 0, which R171's own corner value leaves at 0. -/
def Obligations.MixRule : Prop :=
  (∀ w : CmdWord, w &&& 0xFF0000 = 0x600000 → decode w = .ok .mix) ∧
  (∀ s : State, s.ERR = false →
    (s.SV = false → exec .mix s = .next { s with ERR := true, CAUSE := 3 }) ∧
    (s.SV = true →
      exec .mix s = .next { s with S := mixCol s.S } ∧
      (s.S = 0 → exec .mix s = .next s) ∧
      (s.S ≠ 0 → ∃ w : Word16, execAll [.mix, .mix] s = .next { s with S := w } ∧ w ≠ s.S))) ∧
  mixCol 0x0000 = 0x0000 ∧ mixCol 0x1000 = 0x1400 ∧ mixCol 0x0100 = 0x4100 ∧ mixCol 0x6c40 = 0x3743

/-- STG, R172: the stage STAGE names is applied with its own round key, and STAGE advances; at 3 it faults and does not wrap. -/
def Obligations.StgRule : Prop :=
  (∀ w : CmdWord, w &&& 0xFF0000 = 0x700000 → decode w = .ok .stg) ∧
  (∀ s : State, s.ERR = false →
    (s.SV = false → exec .stg s = .next { s with ERR := true, CAUSE := 3 }) ∧
    (s.SV = true → s.KV = false → exec .stg s = .next { s with ERR := true, CAUSE := 4 }) ∧
    (s.SV = true → s.KV = true →
      (s.STAGE = 0 → exec .stg s = .next { s with S := s.S ^^^ s.RK0, STAGE := 1 }) ∧
      (s.STAGE = 1 →
        exec .stg s = .next { s with S := mixCol (shiftRow (subNib s.S)) ^^^ s.RK1, STAGE := 2 }) ∧
      (s.STAGE = 2 → exec .stg s = .next { s with S := shiftRow (subNib s.S) ^^^ s.RK2, STAGE := 3 }) ∧
      (s.STAGE = 3 → exec .stg s = .next { s with ERR := true, CAUSE := 5 }))) ∧
  (0xa749 : Word16) ^^^ 0x2d55 = 0x8a1c ∧ mixCol (shiftRow (subNib 0x8a1c)) ^^^ 0xbce9 = 0x8baa ∧
  shiftRow (subNib 0x8baa) ^^^ 0xa34a = 0xc349

/-- ENC, R173, with EncryptBlock written out in full as R165 does; STAGE is not read. -/
def Obligations.EncRule : Prop :=
  (∀ w : CmdWord, w &&& 0xFF0000 = 0x800000 → decode w = .ok .enc) ∧
  ∀ s : State, s.ERR = false →
    (s.SV = false → exec .enc s = .next { s with ERR := true, CAUSE := 3 }) ∧
    (s.SV = true → s.KV = false → exec .enc s = .next { s with ERR := true, CAUSE := 4 }) ∧
    (s.SV = true → s.KV = true →
      exec .enc s = .next
        { s with
          S := shiftRow (subNib (mixCol (shiftRow (subNib (s.S ^^^ s.RK0))) ^^^ s.RK1)) ^^^ s.RK2
          STAGE := 3 } ∧
      (s.S = 0xa749 → s.RK0 = 0x2d55 → s.RK1 = 0xbce9 → s.RK2 = 0xa34a →
        exec .enc s = .next { s with S := 0xc349, STAGE := 3 }))

/-- SBX, R115, with the S-Box cells listed as R52 and R110 list them; IMM[15:4] is ignored. -/
def Obligations.SbxRule : Prop :=
  (∀ w : CmdWord, w &&& 0xFF0000 = 0x900000 → decode w = .ok (.sbx (w.extractLsb' 0 4))) ∧
  ∀ (s : State) (n : Nibble), s.ERR = false →
    exec (.sbx n) s = .next
      { s with
        T := ([0x9, 0x4, 0xA, 0xB, 0xD, 0x1, 0x8, 0x5, 0x6, 0x2, 0x0, 0x3, 0xC, 0xE, 0xF, 0x7] : List Byte).getD
          n.toNat 0
        TV := true }

/-- ROT, R116, and the law of R111 that RotNib is its own inverse; IMM[15:8] is ignored. -/
def Obligations.RotRule : Prop :=
  (∀ w : CmdWord, w &&& 0xFF0000 = 0xA00000 → decode w = .ok (.rot (w.extractLsb' 0 8))) ∧
  (∀ (s : State) (b : Byte), s.ERR = false →
    exec (.rot b) s = .next { s with T := b.extractLsb' 0 4 ++ b.extractLsb' 4 4, TV := true }) ∧
  (∀ (s t : State) (b : Byte), s.ERR = false → exec (.rot b) s = .next t →
    exec (.rot t.T) t = .next { s with T := b, TV := true })

/-- GFM, R117, with its corner values; IMM[15:8] is ignored. -/
def Obligations.GfmRule : Prop :=
  (∀ w : CmdWord, w &&& 0xFF0000 = 0xB00000 →
    decode w = .ok (.gfm (w.extractLsb' 4 4) (w.extractLsb' 0 4))) ∧
  (∀ (s : State) (a b : Nibble), s.ERR = false →
    exec (.gfm a b) s = .next { s with T := (gfMul a b).setWidth 8, TV := true }) ∧
  (∀ (s : State) (a : Nibble), s.ERR = false →
    exec (.gfm a 0) s = .next { s with T := 0, TV := true } ∧
    exec (.gfm 0 a) s = .next { s with T := 0, TV := true } ∧
    exec (.gfm a 1) s = .next { s with T := a.setWidth 8, TV := true } ∧
    exec (.gfm 1 a) s = .next { s with T := a.setWidth 8, TV := true }) ∧
  gfMul 0xf 0xf = 0xa ∧ gfMul 2 8 = 3 ∧ gfMul 8 8 = 0xc ∧ gfMul 4 0xc = 5

/-- Derived (spec/40_primitives.md marks both procedures of R112 and the laws of R114 so): the product `GFM` writes is also the
carry-less product of its operands reduced by x^4 + x + 1, whichever operand comes first. -/
def Obligations.GfmReducesByThePolynomial : Prop :=
  ∀ (s : State) (a b : Nibble), s.ERR = false →
    exec (.gfm a b) s = .next { s with T := (gfMulByReduction a b).setWidth 8, TV := true } ∧
    exec (.gfm b a) s = .next { s with T := (gfMulByReduction a b).setWidth 8, TV := true }

/-! ### The functions -/

/-- The State matrix and its packing, R21, and the key matrix, R22. -/
def Obligations.MatrixViewsRoundTrip : Prop :=
  (∀ d : Word16, pack (st d) = d) ∧ (∀ m : NibMatrix, st (pack m) = m) ∧
  (∀ d : Word16,
    (st d).m00 = d.extractLsb' 12 4 ∧ (st d).m01 = d.extractLsb' 4 4 ∧
    (st d).m10 = d.extractLsb' 8 4 ∧ (st d).m11 = d.extractLsb' 0 4) ∧
  (∀ k : Word16,
    (km k).m00 = k.extractLsb' 12 4 ∧ (km k).m01 = k.extractLsb' 8 4 ∧
    (km k).m10 = k.extractLsb' 4 4 ∧ (km k).m11 = k.extractLsb' 0 4 ∧
    (km k).m00 = (st k).m00 ∧ (km k).m01 = (st k).m10 ∧ (km k).m10 = (st k).m01 ∧ (km k).m11 = (st k).m11) ∧
  st 0xa749 = ⟨0xa, 4, 7, 9⟩ ∧ km 0x2d55 = ⟨2, 0xd, 5, 5⟩ ∧ st 0x2d55 = ⟨2, 5, 0xd, 5⟩

/-- KeyExpand byte by byte, R141 to R144, with G spelled out nibble by nibble as R142 does. -/
def Obligations.KeyExpandByBytes : Prop :=
  ∀ (k : Word16) (w0 w1 w2 w3 w4 w5 : Byte),
    w0 = k.extractLsb' 8 8 → w1 = k.extractLsb' 0 8 →
    w2 = w0 ^^^ ((sBoxLookup (w1.extractLsb' 0 4) ^^^ 0x8#4) ++ (sBoxLookup (w1.extractLsb' 4 4) ^^^ 0x0#4)) →
    w3 = w1 ^^^ w2 →
    w4 = w2 ^^^ ((sBoxLookup (w3.extractLsb' 0 4) ^^^ 0x3#4) ++ (sBoxLookup (w3.extractLsb' 4 4) ^^^ 0x0#4)) →
    w5 = w3 ^^^ w4 →
      (keyExpand k).k0 = k ∧ (keyExpand k).k0 = w0 ++ w1 ∧
      (keyExpand k).k1 = w2 ++ w3 ∧ (keyExpand k).k2 = w4 ++ w5

/-- Derived (spec/41_key_schedule.md marks it so): the check equations that every expansion satisfies, and different keys give
different round keys. -/
def Obligations.KeyExpandCheckEquations : Prop :=
  (∀ k : Word16,
    byte0 (keyExpand k).k1 ^^^ byte1 (keyExpand k).k1 = byte1 (keyExpand k).k0 ∧
    byte0 (keyExpand k).k2 ^^^ byte1 (keyExpand k).k2 = byte1 (keyExpand k).k1) ∧
  ∀ k k' : Word16, k ≠ k' → (keyExpand k).k0 ≠ (keyExpand k').k0

/-- AddKey, R160: nibble by nibble, and cell by cell under the State view of the key and, transposed, under its key view;
commutative and self-inverse; the source's vector. -/
def Obligations.AddKeyByCells : Prop :=
  (∀ (d k : Word16) (j : Fin 4), nib (addKey d k) j = nib d j ^^^ nib k j) ∧
  (∀ d k : Word16,
    (st (addKey d k)).m00 = (st d).m00 ^^^ (st k).m00 ∧ (st (addKey d k)).m01 = (st d).m01 ^^^ (st k).m01 ∧
    (st (addKey d k)).m10 = (st d).m10 ^^^ (st k).m10 ∧ (st (addKey d k)).m11 = (st d).m11 ^^^ (st k).m11 ∧
    (st (addKey d k)).m00 = (st d).m00 ^^^ (km k).m00 ∧ (st (addKey d k)).m01 = (st d).m01 ^^^ (km k).m10 ∧
    (st (addKey d k)).m10 = (st d).m10 ^^^ (km k).m01 ∧ (st (addKey d k)).m11 = (st d).m11 ^^^ (km k).m11) ∧
  (∀ d k : Word16, addKey d k = d ^^^ k ∧ addKey d k = addKey k d ∧ addKey (addKey d k) k = d) ∧
  addKey 0xa749 0x2d55 = 0x8a1c

/-- SubNib, R161: every nibble through the S-Box, none moves. -/
def Obligations.SubNibPerNibble : Prop :=
  (∀ (d : Word16) (j : Fin 4), nib (subNib d) j = sBoxLookup (nib d j)) ∧
  (∀ d : Word16, st (subNib d) =
    ⟨sBoxLookup (st d).m00, sBoxLookup (st d).m01, sBoxLookup (st d).m10, sBoxLookup (st d).m11⟩) ∧
  subNib 0x8a1c = 0x604c ∧ subNib 0x81ac = 0x640c

/-- ShiftRow, R162: row 0 stays, the cells of row 1 change columns; two cancel. -/
def Obligations.ShiftRowSwapsRowOne : Prop :=
  (∀ d : Word16, shiftRow d =
    d.extractLsb' 12 4 ++ d.extractLsb' 0 4 ++ d.extractLsb' 4 4 ++ d.extractLsb' 8 4) ∧
  (∀ d : Word16, st (shiftRow d) = ⟨(st d).m00, (st d).m01, (st d).m11, (st d).m10⟩) ∧
  (∀ d : Word16, shiftRow (shiftRow d) = d) ∧
  shiftRow 0x604c = 0x6c40

/-- MixCol, R163: each column (a, b) becomes (1·a + 4·b, 4·a + 1·b), as matrix cells and as the word of R163; the source's
vector. -/
def Obligations.MixColByMatrix : Prop :=
  (∀ d : Word16, st (mixCol d) =
    ⟨gfMul 1 (st d).m00 ^^^ gfMul 4 (st d).m10, gfMul 1 (st d).m01 ^^^ gfMul 4 (st d).m11,
     gfMul 4 (st d).m00 ^^^ gfMul 1 (st d).m10, gfMul 4 (st d).m01 ^^^ gfMul 1 (st d).m11⟩) ∧
  (∀ d : Word16, mixCol d =
    packNibs (nib d 0 ^^^ mul4 (nib d 1)) (mul4 (nib d 0) ^^^ nib d 1)
      (nib d 2 ^^^ mul4 (nib d 3)) (mul4 (nib d 2) ^^^ nib d 3)) ∧
  mixCol 0x6c40 = 0x3743

/-- Derived (spec/40_primitives.md and spec/42_round_pipeline.md mark it so): Mul4 bit by bit on every nibble of a word, MixCol is
linear over xor, and applied twice it multiplies every cell by 2. -/
def Obligations.MixColIsLinearAndSquaresToTwo : Prop :=
  (∀ (d : Word16) (j : Fin 4),
    (mul4 (nib d j)).getLsbD 3 = (nib d j).getLsbD 1 ∧
    (mul4 (nib d j)).getLsbD 2 = ((nib d j).getLsbD 0 ^^ (nib d j).getLsbD 3) ∧
    (mul4 (nib d j)).getLsbD 1 = ((nib d j).getLsbD 2 ^^ (nib d j).getLsbD 3) ∧
    (mul4 (nib d j)).getLsbD 0 = (nib d j).getLsbD 2) ∧
  (∀ d e : Word16, mixCol (d ^^^ e) = mixCol d ^^^ mixCol e) ∧ mixCol 0 = 0 ∧
  ∀ (d : Word16) (j : Fin 4), nib (mixCol (mixCol d)) j = gfMul 2 (nib d j)

/-- Derived (spec/42_round_pipeline.md marks it so): SubNib and ShiftRow commute. -/
def Obligations.SubNibShiftRowCommute : Prop :=
  ∀ d : Word16, subNib (shiftRow d) = shiftRow (subNib d)

/-- Derived (spec/42_round_pipeline.md marks it so): for fixed round keys EncryptBlock loses nothing, so each step of the pipeline
and the whole are bijections on 16-bit words. It rests on the S-Box contents of R52, which the spec takes from general knowledge. -/
def Obligations.EncryptBlockBijective : Prop :=
  Function.Bijective subNib ∧ Function.Bijective shiftRow ∧ Function.Bijective mixCol ∧
  ∀ k0 k1 k2 : Word16, Function.Bijective fun p => encryptBlock p k0 k1 k2

/-! ### Reset, faults, the locked core -/

/-- The reset values of R32, where the spec gives one: of the state after power-on and of the constants. S, RK and T have none
and are not mentioned. -/
def Obligations.ResetValues : Prop :=
  State.reset.STAGE = 0 ∧ State.reset.SV = false ∧ State.reset.KV = false ∧ State.reset.TV = false ∧
  State.reset.ERR = false ∧ State.reset.CAUSE = 0 ∧
  (∀ s : State, (assertReset s).STAGE = 0 ∧ (assertReset s).SV = false ∧ (assertReset s).KV = false ∧
    (assertReset s).TV = false ∧ (assertReset s).ERR = false ∧ (assertReset s).CAUSE = 0) ∧
  Config.rcon = #v[0x80, 0x30] ∧
  ∀ n : Nibble, romReadSbox n =
    ([0x9, 0x4, 0xA, 0xB, 0xD, 0x1, 0x8, 0x5, 0x6, 0x2, 0x0, 0x3, 0xC, 0xE, 0xF, 0x7] : List Nibble).getD n.toNat 0

/-- What the `rst` input leaves, R251: whatever the state, locked or not, and whatever command is presented with it, the control
registers take their reset values, and the command is dropped. S, RK and T are left unspecified. -/
def Obligations.ResetClearsTheControlRegisters : Prop :=
  ∀ (s : State) (p : Input) (rest : List Input), s.inputs = p :: rest → p.rst = true →
    ∃ t, step s = .next t ∧ t.STAGE = 0 ∧ t.SV = false ∧ t.KV = false ∧ t.TV = false ∧ t.ERR = false ∧
      t.CAUSE = 0 ∧ t.inputs = rest

/-- Derived (notes/assumptions/13.md): two resets in a row equal one in everything the ports show. -/
def Obligations.TwoResetsEqualOne : Prop :=
  ∀ (s : State) (p q : Input) (rest : List Input), s.inputs = p :: q :: rest → p.rst = true → q.rst = true →
    ∃ t u, step s = .next t ∧ step t = .next u ∧ u.ports = t.ports

/-- Fault entry, R216: a command that faults writes ERR and CAUSE and has no other effect. -/
def Obligations.FaultsArePrecise : Prop :=
  ∀ (s t : State) (rest : List Input) (w : CmdWord), s.inputs = ⟨false, true, w⟩ :: rest →
    s.ERR = false → step s = .next t → t.ERR = true →
      ∃ c : Cause, t = { s with inputs := rest, ERR := true, CAUSE := c.code }

/-- The locked core, R218: every command word, legal or not, is ignored, and nothing changes; and a step leaves the locked state
exactly when it takes a reset. -/
def Obligations.LockedCoreIgnoresCommands : Prop :=
  (∀ (s : State) (rest : List Input) (w : CmdWord), s.ERR = true → s.inputs = ⟨false, true, w⟩ :: rest →
    step s = .next { s with inputs := rest }) ∧
  ∀ s t : State, s.ERR = true → step s = .next t →
    (t.ERR = false ↔ ∃ p rest, s.inputs = p :: rest ∧ p.rst = true)

/-- Derived: on a locked core every sample without `rst` changes nothing, the idle one too (the idle sample is the model's reading,
notes/assumptions/1.md), and no operation changes anything, even before the step's own check (the second check is the model's,
notes/assumptions/12.md, after the remark of spec/10_state.md R35 that the spec marks derived). -/
def Obligations.LockedCoreKeepsItsState : Prop :=
  (∀ (s : State) (p : Input) (rest : List Input), s.ERR = true → s.inputs = p :: rest → p.rst = false →
    step s = .next { s with inputs := rest }) ∧
  ∀ (s : State) (i : Instr), s.ERR = true → exec i s = .next s

/-- The causes, R211, and their priority, R215: which code a presented word raises on an unlocked core, lowest first, and that
otherwise it raises none. The conditions are on the bits of the word and on SV, KV, STAGE. Nothing but the code is recorded. A
reset presented with a command wins: the step is the one that the reset takes with no command presented, so the command is not
executed. -/
def Obligations.CauseOfEveryCommand : Prop :=
  (∀ (s : State) (p : Input) (rest : List Input), s.inputs = p :: rest → p.rst = true →
    ∃ t, step s = .next t ∧ step { s with inputs := { p with cmdValid := false } :: rest } = .next t ∧
      t.STAGE = 0 ∧ t.SV = false ∧ t.KV = false ∧ t.TV = false ∧ t.ERR = false ∧ t.CAUSE = 0 ∧ t.inputs = rest) ∧
  ∀ (s : State) (rest : List Input) (w : CmdWord), s.inputs = ⟨false, true, w⟩ :: rest →
    s.ERR = false → s.CAUSE = 0 →
    ∃ t, step s = .next t ∧ (t.ERR = true → t = { s with inputs := rest, ERR := true, CAUSE := t.CAUSE }) ∧
      let opc := (w.extractLsb' 20 4).toNat
      let idx := (w.extractLsb' 18 2).toNat
      if 0xC ≤ opc ∨ w.extractLsb' 16 2 ≠ 0#2 ∨ (idx ≠ 0 ∧ opc ≠ 3) then t.ERR = true ∧ t.CAUSE = 1
      else if opc = 3 ∧ idx = 3 then t.ERR = true ∧ t.CAUSE = 2
      else if 3 ≤ opc ∧ opc ≤ 8 ∧ s.SV = false then t.ERR = true ∧ t.CAUSE = 3
      else if (opc = 3 ∨ opc = 7 ∨ opc = 8) ∧ s.KV = false then t.ERR = true ∧ t.CAUSE = 4
      else if opc = 7 ∧ s.STAGE = 3 then t.ERR = true ∧ t.CAUSE = 5
      else t.ERR = false ∧ t.CAUSE = 0

/-! ### Invariants and whole-machine rules -/

/-- Derived: the invariants hold after reset. -/
def Obligations.InvariantsHoldAtReset : Prop :=
  StatusInv State.reset ∧ KeyInv State.reset ∧ ∀ s : State, StatusInv (assertReset s) ∧ KeyInv (assertReset s)

/-- Derived (spec/10_state.md marks it so): every step keeps ERR, CAUSE, STAGE and the valid flags consistent. -/
def Obligations.StepKeepsStatusConsistent : Prop :=
  ∀ s t : State, StatusInv s → step s = .next t → StatusInv t

/-- Derived: every step keeps the round keys the expansion of one master key while KV = 1. -/
def Obligations.StepKeepsRoundKeysExpanded : Prop :=
  ∀ s t : State, KeyInv s → step s = .next t → KeyInv t

/-- Derived (spec/10_state.md marks it so): a valid flag, once 1, stays 1 until reset; so does ERR. -/
def Obligations.FlagsStayUntilReset : Prop :=
  ∀ (s t : State) (p : Input) (rest : List Input), s.inputs = p :: rest → p.rst = false → step s = .next t →
    (s.SV = true → t.SV = true) ∧ (s.KV = true → t.KV = true) ∧ (s.TV = true → t.TV = true) ∧
    (s.ERR = true → t.ERR = true)

/-- Derived (the table of spec/10_state.md): an operation changes only the registers the table gives it; ERR and CAUSE change only
by a fault, and then nothing else does. -/
def Obligations.OperationsWriteOnlyTheirRegisters : Prop :=
  ∀ (i : Instr) (s t : State), exec i s = .next t →
    (writesS i = false → t.S = s.S) ∧
    (writesKeys i = false → t.RK0 = s.RK0 ∧ t.RK1 = s.RK1 ∧ t.RK2 = s.RK2 ∧ t.KV = s.KV) ∧
    (writesT i = false → t.T = s.T ∧ t.TV = s.TV) ∧
    (writesStage i = false → t.STAGE = s.STAGE) ∧
    (writesSV i = false → t.SV = s.SV) ∧
    t.inputs = s.inputs ∧ t.freeCount = s.freeCount ∧
    ((t.ERR = s.ERR ∧ t.CAUSE = s.CAUSE) ∨
      (s.ERR = false ∧ t.ERR = true ∧ t = { s with ERR := t.ERR, CAUSE := t.CAUSE }))

/-- Derived (R24): a round key changes only by a `KEX` word on an unlocked core, or by reset. -/
def Obligations.OnlyKexOrResetChangesKeys : Prop :=
  ∀ s t : State, step s = .next t → (t.RK0 ≠ s.RK0 ∨ t.RK1 ≠ s.RK1 ∨ t.RK2 ≠ s.RK2 ∨ t.KV ≠ s.KV) →
    ∃ p rest, s.inputs = p :: rest ∧
      (p.rst = true ∨ (p.cmdValid = true ∧ s.ERR = false ∧ p.cmd &&& 0xFF0000 = 0x200000))

/-- Derived (R25): no operation reads T or TV. Whatever they hold, a command does the same to every other register, and T and TV
are after it either both the same or both as they were. -/
def Obligations.ResultRegisterIsNeverRead : Prop :=
  ∀ (i : Instr) (s : State) (v : Byte) (f : Bool),
    ∃ t u, exec i s = .next t ∧ exec i { s with T := v, TV := f } = .next u ∧
      u = { t with T := u.T, TV := u.TV } ∧
      ((t.T = u.T ∧ t.TV = u.TV) ∨ (t.T = s.T ∧ u.T = v ∧ t.TV = s.TV ∧ u.TV = f))

/-- Derived: unspecified data is never observed. Two cores that differ only in data registers whose valid flag is 0, given the same
moves, show the same ports after the step. -/
def Obligations.StepHidesUnspecifiedData : Prop :=
  ∀ s t : State, Indistinguishable s t →
    ∃ s' t', step s = .next s' ∧ step t = .next t' ∧ Indistinguishable s' t'

/-- Derived: the same over runs of any length, from any two states after a reset: what the ports show is a function of the
host's moves alone, whatever reset left in S, RK and T. In particular the zeros that the model chose for State.reset
(notes/assumptions/2.md) are never observed. -/
def Obligations.RunsAfterResetShowTheSamePorts : Prop :=
  (∀ (n : Nat) (s t : State), s.inputs = t.inputs →
    ∃ s' t', Sys2Proof.core.run n (assertReset s) = .next s' ∧ Sys2Proof.core.run n (assertReset t) = .next t' ∧
      Indistinguishable s' t') ∧
  ∀ (n : Nat) (s : State),
    ∃ s' t', Sys2Proof.core.run n (setInputs s.inputs State.reset) = .next s' ∧
      Sys2Proof.core.run n (assertReset s) = .next t' ∧ Indistinguishable s' t'

/-- Derived: the machine never stops: every step answers a next state, and so does every command. -/
def Obligations.StepAlwaysAnswersNext : Prop :=
  (∀ s : State, ∃ t, step s = .next t) ∧ ∀ (i : Instr) (s : State), ∃ t, exec i s = .next t

/-- Derived (60_exceptions.md, Power states; the second clause rests on notes/assumptions/1.md): a core given no command keeps its
state, with no sample pending, or with neither `rst` nor `cmd_valid`. -/
def Obligations.IdleCoreKeepsItsState : Prop :=
  (∀ s : State, s.inputs = [] → step s = .next s) ∧
  ∀ (s : State) (p : Input) (rest : List Input), s.inputs = p :: rest → p.rst = false → p.cmdValid = false →
    step s = .next { s with inputs := rest }

/-! ### Encryption as the host sees it -/

/-- Derived (30_encoding.md, 70_reset_and_hazards.md): a whole encryption is the three commands `KEX`, `LDS`, `ENC`, with the first two in either order: from any unlocked
core, three steps leave the ciphertext on `s_out`, the round keys on `rk*_out` and STAGE = 3. -/
def Obligations.ThreeCommandsEncryptABlock : Prop :=
  ∀ (s : State) (k p : Word16), s.ERR = false →
    let r := keyExpand k
    let c := encryptBlock p r.k0 r.k1 r.k2
    let kex : CmdWord := 0x20#8 ++ k
    let lds : CmdWord := 0x10#8 ++ p
    let final : State :=
      { s with S := c, RK0 := r.k0, RK1 := r.k1, RK2 := r.k2, STAGE := 3, SV := true, KV := true }
    Sys2Proof.core.run 3 (present [kex, lds, 0x800000] s) = .next final ∧
    Sys2Proof.core.run 3 (present [lds, kex, 0x800000] s) = .next final ∧
    final.ports.sOut = some c ∧ final.ports.rk0Out = some k ∧ final.ports.rk1Out = some r.k1 ∧
    final.ports.rk2Out = some r.k2

/-- Derived (spec/42_round_pipeline.md marks it so): the block command, the three stages after reloading S, and the eight
primitives leave the same S; the first two leave STAGE = 3 and the third leaves STAGE as it was. -/
def Obligations.ThreeWaysToEncryptAgree : Prop :=
  ∀ s : State, s.ERR = false → s.SV = true → s.KV = true →
    let c := encryptBlock s.S s.RK0 s.RK1 s.RK2
    execAll [.enc] s = .next { s with S := c, STAGE := 3 } ∧
    execAll [.lds s.S, .stg, .stg, .stg] s = .next { s with S := c, STAGE := 3 } ∧
    execAll [.ark 0, .sub, .shr, .mix, .ark 1, .sub, .shr, .ark 2] s = .next { s with S := c }

/-- Derived (spec/42_round_pipeline.md marks it so): a single `STG` is the primitives of its stage, apart from the STAGE
increment. -/
def Obligations.StageIsItsPrimitives : Prop :=
  ∀ (s t : State) (is : List Instr) (n : BitVec 2), s.ERR = false → s.SV = true → s.KV = true →
    (s.STAGE = 0 ∧ is = [.ark 0] ∧ n = 1 ∨ s.STAGE = 1 ∧ is = [.sub, .shr, .mix, .ark 1] ∧ n = 2 ∨
      s.STAGE = 2 ∧ is = [.sub, .shr, .ark 2] ∧ n = 3) →
    execAll is s = .next t → exec .stg s = .next { t with STAGE := n }

/-- Derived (R256): wherever a `KEX` falls between `LDS` and the block's last stage, the remaining stages use the new round keys and
the stages done keep the old ones, and the core does not fault. Before stage 0 no stage is done, so the whole block is under the new
keys, and the core need not have held any (notes/assumptions/15.md). -/
def Obligations.RekeyInsideABlock : Prop :=
  ∀ (s : State) (p k : Word16), s.ERR = false →
    let r := keyExpand k
    let final (c : Word16) : State :=
      { s with S := c, RK0 := r.k0, RK1 := r.k1, RK2 := r.k2, STAGE := 3, SV := true, KV := true }
    execAll [.lds p, .kex k, .stg, .stg, .stg] s =
      .next (final (shiftRow (subNib (mixCol (shiftRow (subNib (p ^^^ r.k0))) ^^^ r.k1)) ^^^ r.k2)) ∧
    (s.KV = true →
      execAll [.lds p, .stg, .kex k, .stg, .stg] s =
        .next (final (shiftRow (subNib (mixCol (shiftRow (subNib (p ^^^ s.RK0))) ^^^ r.k1)) ^^^ r.k2)) ∧
      execAll [.lds p, .stg, .stg, .kex k, .stg] s =
        .next (final (shiftRow (subNib (mixCol (shiftRow (subNib (p ^^^ s.RK0))) ^^^ s.RK1)) ^^^ r.k2)))

/-- Derived (spec/41_key_schedule.md, spec/70_reset_and_hazards.md): re-running a block gives the same result: after any command list that
loads neither keys nor faults nor resets, `LDS` then `ENC` gives EncryptBlock of the block under the held keys. -/
def Obligations.BlockResultHasNoHiddenState : Prop :=
  ∀ (s t : State) (is : List Instr) (p : Word16), s.KV = true →
    (∀ i ∈ is, writesKeys i = false) → execAll is s = .next t → t.ERR = false →
    execAll (is ++ [.lds p, .enc]) s = .next
      { t with S := encryptBlock p s.RK0 s.RK1 s.RK2, STAGE := 3, SV := true }

/-- Derived (10_state.md, Ports; the `none` is the model's choice, notes/assumptions/5.md): each port shows its register; a data port
has no meaning while its valid flag is 0. -/
def Obligations.PortsShowTheRegisters : Prop :=
  ∀ s : State,
    (s.SV = true → s.ports.sOut = some s.S) ∧ (s.SV = false → s.ports.sOut = none) ∧
    (s.KV = true → s.ports.rk0Out = some s.RK0 ∧ s.ports.rk1Out = some s.RK1 ∧ s.ports.rk2Out = some s.RK2) ∧
    (s.KV = false → s.ports.rk0Out = none ∧ s.ports.rk1Out = none ∧ s.ports.rk2Out = none) ∧
    (s.TV = true → s.ports.tOut = some s.T) ∧ (s.TV = false → s.ports.tOut = none) ∧
    s.ports.stageOut = s.STAGE ∧ s.ports.sv = s.SV ∧ s.ports.kv = s.KV ∧ s.ports.tv = s.TV ∧
    s.ports.err = s.ERR ∧ s.ports.cause = s.CAUSE
end

