-- ==== Sys2Proof/Laws/Decode.lean ====
section
/-! SUPPORT. The fields of a word built from fields (spec/30_encoding.md R81, R82), and the operation each opcode selects. -/

namespace Sys2Proof

@[simp] theorem fieldOpc_cmdWord (o : BitVec 4) (x : BitVec 2) (m : Word16) : fieldOpc (cmdWord o x m) = o := by
  apply BitVec.eq_of_getLsbD_eq
  intro i h
  simp only [fieldOpc, cmdWord, BitVec.getLsbD_extractLsb', BitVec.getLsbD_append]
  grind

@[simp] theorem fieldIdx_cmdWord (o : BitVec 4) (x : BitVec 2) (m : Word16) : fieldIdx (cmdWord o x m) = x := by
  apply BitVec.eq_of_getLsbD_eq
  intro i h
  simp only [fieldIdx, cmdWord, BitVec.getLsbD_extractLsb', BitVec.getLsbD_append]
  grind

@[simp] theorem fieldRsv_cmdWord (o : BitVec 4) (x : BitVec 2) (m : Word16) : fieldRsv (cmdWord o x m) = 0 := by
  apply BitVec.eq_of_getLsbD_eq
  intro i h
  simp only [fieldRsv, cmdWord, BitVec.getLsbD_extractLsb', BitVec.getLsbD_append]
  grind

@[simp] theorem fieldImm_cmdWord (o : BitVec 4) (x : BitVec 2) (m : Word16) : fieldImm (cmdWord o x m) = m := by
  apply BitVec.eq_of_getLsbD_eq
  intro i h
  simp only [fieldImm, cmdWord, BitVec.getLsbD_extractLsb', BitVec.getLsbD_append]
  grind

/-- A word with RSV = 0 is its fields put together again. -/
theorem cmdWord_fields (w : CmdWord) (h : fieldRsv w = 0) : cmdWord (fieldOpc w) (fieldIdx w) (fieldImm w) = w := by
  have hb : ∀ j, (fieldRsv w).getLsbD j = false := by simp [h]
  apply BitVec.eq_of_getLsbD_eq
  intro i hi
  simp only [fieldRsv, BitVec.getLsbD_extractLsb'] at hb
  have h16 := hb 0
  have h17 := hb 1
  simp only [cmdWord, fieldOpc, fieldIdx, fieldImm, BitVec.getLsbD_append, BitVec.getLsbD_extractLsb']
  grind

/-- What `decode` does: the fields of a legal word and the operation its opcode selects. -/
theorem decode_ok_iff (w : CmdWord) (i : Instr) :
    decode w = .ok i ↔ selectOp (fieldOpc w) (fieldIdx w) (fieldImm w) = some i ∧ fieldRsv w = 0 ∧
      (fieldIdx w = 0 ∨ fieldOpc w = 0x3) := by
  unfold decode
  cases selectOp (fieldOpc w) (fieldIdx w) (fieldImm w) with
  | none => simp
  | some j => grind

end Sys2Proof
end

