-- ==== Sys2Proof/Laws/Ops.lean ====
section
/-! SUPPORT. What each shared operation can do, said once: the checks (spec/60_exceptions.md R211) and the frame every command runs in
(R216, R218). -/

namespace Sys2Proof.Machine

@[simp] theorem requireState_valid {s : State} (h : s.SV = true) : requireState s = .ok () := by
  simp [requireState, h]

@[simp] theorem requireState_missing {s : State} (h : s.SV = false) : requireState s = .error .noState := by
  simp [requireState, h]

@[simp] theorem requireKey_valid {s : State} (h : s.KV = true) : requireKey s = .ok () := by
  simp [requireKey, h]

@[simp] theorem requireKey_missing {s : State} (h : s.KV = false) : requireKey s = .error .noKey := by
  simp [requireKey, h]

/-- A two-bit index or stage is 3, which names nothing, or is one of the three. -/
theorem threeOf_cases (i : BitVec 2) :
    (i = 3 ∧ threeOf i = none) ∨ (i = 0 ∧ threeOf i = some 0) ∨ (i = 1 ∧ threeOf i = some 1) ∨
      (i = 2 ∧ threeOf i = some 2) := by
  revert i; decide

/-- A locked core runs nothing. -/
theorem runCommand_locked {s : State} (r : Except Cause State) (h : s.ERR = true) : runCommand s r = .next s := by
  simp [runCommand, h]

/-- An unlocked core completes a command that passes its checks. -/
theorem runCommand_ok {s : State} (t : State) (h : s.ERR = false) : runCommand s (.ok t) = .next t := by
  simp [runCommand, h]

/-- An unlocked core takes the fault of a command that fails a check. -/
theorem runCommand_error {s : State} (c : Cause) (h : s.ERR = false) :
    runCommand s (.error c) = .next (raise c s) := by
  simp [runCommand, h]

/-- Everything a command can do: it is ignored, it completes, or it faults. -/
theorem runCommand_cases {s t : State} {r : Except Cause State} (h : runCommand s r = .next t) :
    (s.ERR = true ∧ t = s) ∨ (s.ERR = false ∧ r = .ok t) ∨ (s.ERR = false ∧ ∃ c, r = .error c ∧ t = raise c s) := by
  unfold runCommand at h
  cases hE : s.ERR <;> cases r <;> simp_all

/-- A command always answers a next state. -/
theorem runCommand_next (s : State) (r : Except Cause State) : ∃ t, runCommand s r = .next t := by
  unfold runCommand
  cases s.ERR <;> cases r <;> simp

end Sys2Proof.Machine
end

