-- ==== Sys2Proof/Laws/State.lean ====
section
/-! SUPPORT. What each register operation leaves in each field, one lemma per field per operation, true by unfolding; and how a
state is compared field by field. -/

namespace Sys2Proof.Machine

variable (s : State)

/-! What an operation that writes S alone leaves in each field. -/

@[simp] theorem writeS_S (v : Word16) : (writeS v s).S = v := rfl
@[simp] theorem writeS_RK0 (v : Word16) : (writeS v s).RK0 = s.RK0 := rfl
@[simp] theorem writeS_RK1 (v : Word16) : (writeS v s).RK1 = s.RK1 := rfl
@[simp] theorem writeS_RK2 (v : Word16) : (writeS v s).RK2 = s.RK2 := rfl
@[simp] theorem writeS_T (v : Word16) : (writeS v s).T = s.T := rfl
@[simp] theorem writeS_STAGE (v : Word16) : (writeS v s).STAGE = s.STAGE := rfl
@[simp] theorem writeS_SV (v : Word16) : (writeS v s).SV = s.SV := rfl
@[simp] theorem writeS_KV (v : Word16) : (writeS v s).KV = s.KV := rfl
@[simp] theorem writeS_TV (v : Word16) : (writeS v s).TV = s.TV := rfl
@[simp] theorem writeS_ERR (v : Word16) : (writeS v s).ERR = s.ERR := rfl
@[simp] theorem writeS_CAUSE (v : Word16) : (writeS v s).CAUSE = s.CAUSE := rfl
@[simp] theorem writeS_inputs (v : Word16) : (writeS v s).inputs = s.inputs := rfl
@[simp] theorem writeS_freeCount (v : Word16) : (writeS v s).freeCount = s.freeCount := rfl

/-! What `LDS` leaves in each field. -/

@[simp] theorem loadBlock_S (v : Word16) : (loadBlock v s).S = v := rfl
@[simp] theorem loadBlock_RK0 (v : Word16) : (loadBlock v s).RK0 = s.RK0 := rfl
@[simp] theorem loadBlock_RK1 (v : Word16) : (loadBlock v s).RK1 = s.RK1 := rfl
@[simp] theorem loadBlock_RK2 (v : Word16) : (loadBlock v s).RK2 = s.RK2 := rfl
@[simp] theorem loadBlock_T (v : Word16) : (loadBlock v s).T = s.T := rfl
@[simp] theorem loadBlock_STAGE (v : Word16) : (loadBlock v s).STAGE = 0 := rfl
@[simp] theorem loadBlock_SV (v : Word16) : (loadBlock v s).SV = true := rfl
@[simp] theorem loadBlock_KV (v : Word16) : (loadBlock v s).KV = s.KV := rfl
@[simp] theorem loadBlock_TV (v : Word16) : (loadBlock v s).TV = s.TV := rfl
@[simp] theorem loadBlock_ERR (v : Word16) : (loadBlock v s).ERR = s.ERR := rfl
@[simp] theorem loadBlock_CAUSE (v : Word16) : (loadBlock v s).CAUSE = s.CAUSE := rfl
@[simp] theorem loadBlock_inputs (v : Word16) : (loadBlock v s).inputs = s.inputs := rfl
@[simp] theorem loadBlock_freeCount (v : Word16) : (loadBlock v s).freeCount = s.freeCount := rfl

/-! What `STG` and `ENC` leaves in each field. -/

@[simp] theorem writeStage_S (v : Word16) (n : BitVec 2) : (writeStage v n s).S = v := rfl
@[simp] theorem writeStage_RK0 (v : Word16) (n : BitVec 2) : (writeStage v n s).RK0 = s.RK0 := rfl
@[simp] theorem writeStage_RK1 (v : Word16) (n : BitVec 2) : (writeStage v n s).RK1 = s.RK1 := rfl
@[simp] theorem writeStage_RK2 (v : Word16) (n : BitVec 2) : (writeStage v n s).RK2 = s.RK2 := rfl
@[simp] theorem writeStage_T (v : Word16) (n : BitVec 2) : (writeStage v n s).T = s.T := rfl
@[simp] theorem writeStage_STAGE (v : Word16) (n : BitVec 2) : (writeStage v n s).STAGE = n := rfl
@[simp] theorem writeStage_SV (v : Word16) (n : BitVec 2) : (writeStage v n s).SV = s.SV := rfl
@[simp] theorem writeStage_KV (v : Word16) (n : BitVec 2) : (writeStage v n s).KV = s.KV := rfl
@[simp] theorem writeStage_TV (v : Word16) (n : BitVec 2) : (writeStage v n s).TV = s.TV := rfl
@[simp] theorem writeStage_ERR (v : Word16) (n : BitVec 2) : (writeStage v n s).ERR = s.ERR := rfl
@[simp] theorem writeStage_CAUSE (v : Word16) (n : BitVec 2) : (writeStage v n s).CAUSE = s.CAUSE := rfl
@[simp] theorem writeStage_inputs (v : Word16) (n : BitVec 2) : (writeStage v n s).inputs = s.inputs := rfl
@[simp] theorem writeStage_freeCount (v : Word16) (n : BitVec 2) : (writeStage v n s).freeCount = s.freeCount := rfl

/-! What `KEX` leaves in each field. -/

@[simp] theorem writeKeys_S (k0 k1 k2 : Word16) : (writeKeys k0 k1 k2 s).S = s.S := rfl
@[simp] theorem writeKeys_RK0 (k0 k1 k2 : Word16) : (writeKeys k0 k1 k2 s).RK0 = k0 := rfl
@[simp] theorem writeKeys_RK1 (k0 k1 k2 : Word16) : (writeKeys k0 k1 k2 s).RK1 = k1 := rfl
@[simp] theorem writeKeys_RK2 (k0 k1 k2 : Word16) : (writeKeys k0 k1 k2 s).RK2 = k2 := rfl
@[simp] theorem writeKeys_T (k0 k1 k2 : Word16) : (writeKeys k0 k1 k2 s).T = s.T := rfl
@[simp] theorem writeKeys_STAGE (k0 k1 k2 : Word16) : (writeKeys k0 k1 k2 s).STAGE = s.STAGE := rfl
@[simp] theorem writeKeys_SV (k0 k1 k2 : Word16) : (writeKeys k0 k1 k2 s).SV = s.SV := rfl
@[simp] theorem writeKeys_KV (k0 k1 k2 : Word16) : (writeKeys k0 k1 k2 s).KV = true := rfl
@[simp] theorem writeKeys_TV (k0 k1 k2 : Word16) : (writeKeys k0 k1 k2 s).TV = s.TV := rfl
@[simp] theorem writeKeys_ERR (k0 k1 k2 : Word16) : (writeKeys k0 k1 k2 s).ERR = s.ERR := rfl
@[simp] theorem writeKeys_CAUSE (k0 k1 k2 : Word16) : (writeKeys k0 k1 k2 s).CAUSE = s.CAUSE := rfl
@[simp] theorem writeKeys_inputs (k0 k1 k2 : Word16) : (writeKeys k0 k1 k2 s).inputs = s.inputs := rfl
@[simp] theorem writeKeys_freeCount (k0 k1 k2 : Word16) : (writeKeys k0 k1 k2 s).freeCount = s.freeCount := rfl

/-! What `SBX`, `ROT` and `GFM` leaves in each field. -/

@[simp] theorem writeT_S (v : Byte) : (writeT v s).S = s.S := rfl
@[simp] theorem writeT_RK0 (v : Byte) : (writeT v s).RK0 = s.RK0 := rfl
@[simp] theorem writeT_RK1 (v : Byte) : (writeT v s).RK1 = s.RK1 := rfl
@[simp] theorem writeT_RK2 (v : Byte) : (writeT v s).RK2 = s.RK2 := rfl
@[simp] theorem writeT_T (v : Byte) : (writeT v s).T = v := rfl
@[simp] theorem writeT_STAGE (v : Byte) : (writeT v s).STAGE = s.STAGE := rfl
@[simp] theorem writeT_SV (v : Byte) : (writeT v s).SV = s.SV := rfl
@[simp] theorem writeT_KV (v : Byte) : (writeT v s).KV = s.KV := rfl
@[simp] theorem writeT_TV (v : Byte) : (writeT v s).TV = true := rfl
@[simp] theorem writeT_ERR (v : Byte) : (writeT v s).ERR = s.ERR := rfl
@[simp] theorem writeT_CAUSE (v : Byte) : (writeT v s).CAUSE = s.CAUSE := rfl
@[simp] theorem writeT_inputs (v : Byte) : (writeT v s).inputs = s.inputs := rfl
@[simp] theorem writeT_freeCount (v : Byte) : (writeT v s).freeCount = s.freeCount := rfl

/-! What a fault leaves in each field. -/

@[simp] theorem raise_S (c : Cause) : (raise c s).S = s.S := rfl
@[simp] theorem raise_RK0 (c : Cause) : (raise c s).RK0 = s.RK0 := rfl
@[simp] theorem raise_RK1 (c : Cause) : (raise c s).RK1 = s.RK1 := rfl
@[simp] theorem raise_RK2 (c : Cause) : (raise c s).RK2 = s.RK2 := rfl
@[simp] theorem raise_T (c : Cause) : (raise c s).T = s.T := rfl
@[simp] theorem raise_STAGE (c : Cause) : (raise c s).STAGE = s.STAGE := rfl
@[simp] theorem raise_SV (c : Cause) : (raise c s).SV = s.SV := rfl
@[simp] theorem raise_KV (c : Cause) : (raise c s).KV = s.KV := rfl
@[simp] theorem raise_TV (c : Cause) : (raise c s).TV = s.TV := rfl
@[simp] theorem raise_ERR (c : Cause) : (raise c s).ERR = true := rfl
@[simp] theorem raise_CAUSE (c : Cause) : (raise c s).CAUSE = c.code := rfl
@[simp] theorem raise_inputs (c : Cause) : (raise c s).inputs = s.inputs := rfl
@[simp] theorem raise_freeCount (c : Cause) : (raise c s).freeCount = s.freeCount := rfl

/-! What the `rst` input leaves in each field. -/

@[simp] theorem assertReset_S : (assertReset s).S = (Config.unspecifiedData s.freeCount s.dataRegs).S := rfl
@[simp] theorem assertReset_RK0 : (assertReset s).RK0 = (Config.unspecifiedData s.freeCount s.dataRegs).RK0 := rfl
@[simp] theorem assertReset_RK1 : (assertReset s).RK1 = (Config.unspecifiedData s.freeCount s.dataRegs).RK1 := rfl
@[simp] theorem assertReset_RK2 : (assertReset s).RK2 = (Config.unspecifiedData s.freeCount s.dataRegs).RK2 := rfl
@[simp] theorem assertReset_T : (assertReset s).T = (Config.unspecifiedData s.freeCount s.dataRegs).T := rfl
@[simp] theorem assertReset_STAGE : (assertReset s).STAGE = 0 := rfl
@[simp] theorem assertReset_SV : (assertReset s).SV = false := rfl
@[simp] theorem assertReset_KV : (assertReset s).KV = false := rfl
@[simp] theorem assertReset_TV : (assertReset s).TV = false := rfl
@[simp] theorem assertReset_ERR : (assertReset s).ERR = false := rfl
@[simp] theorem assertReset_CAUSE : (assertReset s).CAUSE = 0 := rfl
@[simp] theorem assertReset_inputs : (assertReset s).inputs = s.inputs := rfl
@[simp] theorem assertReset_freeCount : (assertReset s).freeCount = s.freeCount + 1 := rfl

/-! What a change of the host's pending moves leaves in each field. -/

@[simp] theorem setInputs_S (l : List Input) : (setInputs l s).S = s.S := rfl
@[simp] theorem setInputs_RK0 (l : List Input) : (setInputs l s).RK0 = s.RK0 := rfl
@[simp] theorem setInputs_RK1 (l : List Input) : (setInputs l s).RK1 = s.RK1 := rfl
@[simp] theorem setInputs_RK2 (l : List Input) : (setInputs l s).RK2 = s.RK2 := rfl
@[simp] theorem setInputs_T (l : List Input) : (setInputs l s).T = s.T := rfl
@[simp] theorem setInputs_STAGE (l : List Input) : (setInputs l s).STAGE = s.STAGE := rfl
@[simp] theorem setInputs_SV (l : List Input) : (setInputs l s).SV = s.SV := rfl
@[simp] theorem setInputs_KV (l : List Input) : (setInputs l s).KV = s.KV := rfl
@[simp] theorem setInputs_TV (l : List Input) : (setInputs l s).TV = s.TV := rfl
@[simp] theorem setInputs_ERR (l : List Input) : (setInputs l s).ERR = s.ERR := rfl
@[simp] theorem setInputs_CAUSE (l : List Input) : (setInputs l s).CAUSE = s.CAUSE := rfl
@[simp] theorem setInputs_inputs (l : List Input) : (setInputs l s).inputs = l := rfl
@[simp] theorem setInputs_freeCount (l : List Input) : (setInputs l s).freeCount = s.freeCount := rfl

/-! The round-key file sees only its own writer. -/

@[simp] theorem rk_zero : s.rk 0 = s.RK0 := rfl
@[simp] theorem rk_one : s.rk 1 = s.RK1 := rfl
@[simp] theorem rk_two : s.rk 2 = s.RK2 := rfl

/-- Two states with equal fields are equal. -/
theorem State.ext_fields {s t : State} (hS : s.S = t.S) (h0 : s.RK0 = t.RK0) (h1 : s.RK1 = t.RK1)
    (h2 : s.RK2 = t.RK2) (hT : s.T = t.T) (hG : s.STAGE = t.STAGE) (hSV : s.SV = t.SV) (hKV : s.KV = t.KV)
    (hTV : s.TV = t.TV) (hE : s.ERR = t.ERR) (hC : s.CAUSE = t.CAUSE) (hI : s.inputs = t.inputs)
    (hF : s.freeCount = t.freeCount) : s = t := by
  cases s; cases t; simp_all

end Sys2Proof.Machine
end

