-- ==== Sys2Proof/Laws/Exec.lean ====
section
/-! SUPPORT. Everything a command can do on an unlocked core, said once (`exec_effect`), so that no later proof unfolds the
meanings. -/

namespace Sys2Proof.Machine

/-- `Effect i s t`: from the unlocked state `s` the command `i` leads to `t`, by its own effect or by one of its faults. -/
inductive Effect : Instr → State → State → Prop where
  | nop {s} : Effect .nop s s
  | lds {s} (p) : Effect (.lds p) s (loadBlock p s)
  | kex {s} (k) : Effect (.kex k) s (writeKeys (keyExpand k).k0 (keyExpand k).k1 (keyExpand k).k2 s)
  | ark {s x i} (hi : threeOf x = some i) (hs : s.SV = true) (hk : s.KV = true) :
      Effect (.ark x) s (writeS (addKey s.S (s.rk i)) s)
  | sub {s} (hs : s.SV = true) : Effect .sub s (writeS (subNib s.S) s)
  | shr {s} (hs : s.SV = true) : Effect .shr s (writeS (shiftRow s.S) s)
  | mix {s} (hs : s.SV = true) : Effect .mix s (writeS (mixCol s.S) s)
  | stg {s i} (hi : threeOf s.STAGE = some i) (hs : s.SV = true) (hk : s.KV = true) :
      Effect .stg s (writeStage (stage i s.S s.RK0 s.RK1 s.RK2) (s.STAGE + 1) s)
  | enc {s} (hs : s.SV = true) (hk : s.KV = true) :
      Effect .enc s (writeStage (encryptBlock s.S s.RK0 s.RK1 s.RK2) 3 s)
  | sbx {s} (n) : Effect (.sbx n) s (writeT (zextNibble (sBoxLookup n)) s)
  | rot {s} (b) : Effect (.rot b) s (writeT (rotNib b) s)
  | gfm {s} (a b) : Effect (.gfm a b) s (writeT (zextNibble (gfMul a b)) s)
  | keyIndex {s} : Effect (.ark 3) s (raise .keyIndex s)
  | noState {s i} (hi : readsS i = true) (h3 : i ≠ .ark 3) (hs : s.SV = false) : Effect i s (raise .noState s)
  | noKey {s i} (hi : readsKeys i = true) (h3 : i ≠ .ark 3) (hs : s.SV = true) (hk : s.KV = false) :
      Effect i s (raise .noKey s)
  | stageDone {s} (hs : s.SV = true) (hk : s.KV = true) (hg : s.STAGE = 3) : Effect .stg s (raise .stageDone s)

/-- Every command, whatever its checks answer, runs in the one frame, so a locked core ignores it. -/
theorem exec_locked (i : Instr) {s : State} (h : s.ERR = true) : exec i s = .next s := by
  cases i <;>
    simp only [exec, execNop, execLds, execKex, execArk, execSub, execShr, execMix, execStg, execEnc, execSbx, execRot,
      execGfm, runCommand_locked _ h]

/-- The effect of a command on an unlocked core. -/
theorem exec_effect {i : Instr} {s t : State} (he : s.ERR = false) (h : exec i s = .next t) : Effect i s t := by
  cases i
  case nop => rw [exec, execNop, runCommand_ok _ he] at h; cases h; exact .nop
  case lds p => rw [exec, execLds, runCommand_ok _ he] at h; cases h; exact .lds p
  case kex k => rw [exec, execKex, runCommand_ok _ he] at h; cases h; exact .kex k
  case sbx n => rw [exec, execSbx, runCommand_ok _ he] at h; cases h; exact .sbx n
  case rot b => rw [exec, execRot, runCommand_ok _ he] at h; cases h; exact .rot b
  case gfm a b => rw [exec, execGfm, runCommand_ok _ he] at h; cases h; exact .gfm a b
  case sub =>
    cases hs : s.SV <;> simp [exec, execSub, runCommand, he, hs, bind, Except.bind, pure, Except.pure] at h <;> subst h
    exacts [.noState rfl (by simp) hs, .sub hs]
  case shr =>
    cases hs : s.SV <;> simp [exec, execShr, runCommand, he, hs, bind, Except.bind, pure, Except.pure] at h <;> subst h
    exacts [.noState rfl (by simp) hs, .shr hs]
  case mix =>
    cases hs : s.SV <;> simp [exec, execMix, runCommand, he, hs, bind, Except.bind, pure, Except.pure] at h <;> subst h
    exacts [.noState rfl (by simp) hs, .mix hs]
  case enc =>
    cases hs : s.SV <;> cases hk : s.KV <;>
      simp [exec, execEnc, runCommand, he, hs, hk, bind, Except.bind, pure, Except.pure] at h <;> subst h
    exacts [.noState rfl (by simp) hs, .noState rfl (by simp) hs, .noKey rfl (by simp) hs hk, .enc hs hk]
  case ark x =>
    rcases threeOf_cases x with ⟨rfl, ht⟩ | ⟨rfl, ht⟩ | ⟨rfl, ht⟩ | ⟨rfl, ht⟩ <;> cases hs : s.SV <;> cases hk : s.KV <;>
      simp only [exec, execArk, requireIndex, ht, requireState_valid, requireState_missing, requireKey_valid,
        requireKey_missing, hs, hk, runCommand, he, bind, Except.bind, pure, Except.pure] at h <;>
      cases h <;>
      first
        | exact .keyIndex
        | exact .noState rfl (by decide) hs
        | exact .noKey rfl (by decide) hs hk
        | exact .ark ht hs hk
  case stg =>
    rcases threeOf_cases s.STAGE with ⟨hg, ht⟩ | ⟨_, ht⟩ | ⟨_, ht⟩ | ⟨_, ht⟩ <;> cases hs : s.SV <;> cases hk : s.KV <;>
      simp only [exec, execStg, requireStage, ht, requireState_valid, requireState_missing, requireKey_valid,
        requireKey_missing, hs, hk, runCommand, he, bind, Except.bind, pure, Except.pure] at h <;>
      cases h <;>
      first
        | exact .noState rfl (by simp) hs
        | exact .noKey rfl (by simp) hs hk
        | exact .stageDone hs hk hg
        | exact .stg ht hs hk

/-! Each command on an unlocked core whose registers are valid, in the named operations. -/

theorem exec_nop (s : State) : exec .nop s = .next s := by
  cases he : s.ERR
  · exact runCommand_ok s he
  · exact exec_locked .nop he

theorem exec_lds {s : State} (p : Word16) (he : s.ERR = false) : exec (.lds p) s = .next (loadBlock p s) :=
  runCommand_ok _ he

theorem exec_kex {s : State} (k : Word16) (he : s.ERR = false) :
    exec (.kex k) s = .next (writeKeys (keyExpand k).k0 (keyExpand k).k1 (keyExpand k).k2 s) :=
  runCommand_ok _ he

theorem exec_ark {s : State} {x : BitVec 2} {i : Fin 3} (hi : threeOf x = some i) (he : s.ERR = false)
    (hs : s.SV = true) (hk : s.KV = true) : exec (.ark x) s = .next (writeS (addKey s.S (s.rk i)) s) := by
  simp only [exec, execArk, requireIndex, hi, requireState_valid hs, requireKey_valid hk]
  exact runCommand_ok _ he

theorem exec_sub {s : State} (he : s.ERR = false) (hs : s.SV = true) :
    exec .sub s = .next (writeS (subNib s.S) s) := by
  simp only [exec, execSub, requireState_valid hs]
  exact runCommand_ok _ he

theorem exec_shr {s : State} (he : s.ERR = false) (hs : s.SV = true) :
    exec .shr s = .next (writeS (shiftRow s.S) s) := by
  simp only [exec, execShr, requireState_valid hs]
  exact runCommand_ok _ he

theorem exec_mix {s : State} (he : s.ERR = false) (hs : s.SV = true) :
    exec .mix s = .next (writeS (mixCol s.S) s) := by
  simp only [exec, execMix, requireState_valid hs]
  exact runCommand_ok _ he

theorem exec_stg {s : State} {i : Fin 3} (hi : threeOf s.STAGE = some i) (he : s.ERR = false) (hs : s.SV = true)
    (hk : s.KV = true) :
    exec .stg s = .next (writeStage (stage i s.S s.RK0 s.RK1 s.RK2) (s.STAGE + 1) s) := by
  simp only [exec, execStg, requireState_valid hs, requireKey_valid hk, requireStage, hi]
  exact runCommand_ok _ he

theorem exec_enc {s : State} (he : s.ERR = false) (hs : s.SV = true) (hk : s.KV = true) :
    exec .enc s = .next (writeStage (encryptBlock s.S s.RK0 s.RK1 s.RK2) 3 s) := by
  simp only [exec, execEnc, requireState_valid hs, requireKey_valid hk]
  exact runCommand_ok _ he

theorem exec_sbx {s : State} (n : Nibble) (he : s.ERR = false) :
    exec (.sbx n) s = .next (writeT (zextNibble (sBoxLookup n)) s) :=
  runCommand_ok _ he

theorem exec_rot {s : State} (b : Byte) (he : s.ERR = false) : exec (.rot b) s = .next (writeT (rotNib b) s) :=
  runCommand_ok _ he

theorem exec_gfm {s : State} (a b : Nibble) (he : s.ERR = false) :
    exec (.gfm a b) s = .next (writeT (zextNibble (gfMul a b)) s) :=
  runCommand_ok _ he

/-! Command lists. -/

theorem execAll_cons {i : Instr} {is : List Instr} {s t : State} (h : exec i s = .next t) :
    execAll (i :: is) s = execAll is t := by
  simp only [execAll, h]

end Sys2Proof.Machine
end

