-- ==== Sys2Proof/Laws/Operands.lean ====
section
/-! SUPPORT. Slices of concatenations: what a nibble or a byte of a packed word is, and that packing the slices of a word gives the
word (spec/00_scope.md R7, spec/10_state.md R21). -/

namespace Sys2Proof.Machine

/-! Bytes and their nibbles. -/

@[simp] theorem hi_packByte (h l : Nibble) : hi (packByte h l) = h := by
  apply BitVec.eq_of_getLsbD_eq
  intro i hi
  simp only [Machine.hi, packByte, BitVec.getLsbD_extractLsb', BitVec.getLsbD_append]
  grind

@[simp] theorem lo_packByte (h l : Nibble) : lo (packByte h l) = l := by
  apply BitVec.eq_of_getLsbD_eq
  intro i hi
  simp only [Machine.lo, packByte, BitVec.getLsbD_extractLsb', BitVec.getLsbD_append]
  grind

theorem packByte_hi_lo (b : Byte) : packByte (hi b) (lo b) = b := by
  apply BitVec.eq_of_getLsbD_eq
  intro i h
  simp only [packByte, hi, lo, BitVec.getLsbD_append, BitVec.getLsbD_extractLsb']
  grind

/-! Words and their bytes. -/

@[simp] theorem byte0_pack16 (a b : Byte) : byte0 (pack16 a b) = a := by
  apply BitVec.eq_of_getLsbD_eq
  intro i hi
  simp only [byte0, pack16, BitVec.getLsbD_extractLsb', BitVec.getLsbD_append]
  grind

@[simp] theorem byte1_pack16 (a b : Byte) : byte1 (pack16 a b) = b := by
  apply BitVec.eq_of_getLsbD_eq
  intro i hi
  simp only [byte1, pack16, BitVec.getLsbD_extractLsb', BitVec.getLsbD_append]
  grind

theorem pack16_bytes (d : Word16) : pack16 (byte0 d) (byte1 d) = d := by
  apply BitVec.eq_of_getLsbD_eq
  intro i h
  simp only [pack16, byte0, byte1, BitVec.getLsbD_append, BitVec.getLsbD_extractLsb']
  grind

/-! Words and their nibbles. -/

@[simp] theorem nib_packNibs_zero (a b c d : Nibble) : nib (packNibs a b c d) 0 = a := by
  apply BitVec.eq_of_getLsbD_eq
  intro i hi
  simp only [nib, packNibs, BitVec.getLsbD_extractLsb', BitVec.getLsbD_append]
  grind

@[simp] theorem nib_packNibs_one (a b c d : Nibble) : nib (packNibs a b c d) 1 = b := by
  apply BitVec.eq_of_getLsbD_eq
  intro i hi
  simp only [nib, packNibs, BitVec.getLsbD_extractLsb', BitVec.getLsbD_append]
  grind

@[simp] theorem nib_packNibs_two (a b c d : Nibble) : nib (packNibs a b c d) 2 = c := by
  apply BitVec.eq_of_getLsbD_eq
  intro i hi
  simp only [nib, packNibs, BitVec.getLsbD_extractLsb', BitVec.getLsbD_append]
  grind

@[simp] theorem nib_packNibs_three (a b c d : Nibble) : nib (packNibs a b c d) 3 = d := by
  apply BitVec.eq_of_getLsbD_eq
  intro i hi
  simp only [nib, packNibs, BitVec.getLsbD_extractLsb', BitVec.getLsbD_append]
  grind

theorem packNibs_nib (d : Word16) : packNibs (nib d 0) (nib d 1) (nib d 2) (nib d 3) = d := by
  apply BitVec.eq_of_getLsbD_eq
  intro i h
  simp only [packNibs, nib, BitVec.getLsbD_append, BitVec.getLsbD_extractLsb']
  grind

/-- Xor acts on each nibble by itself. -/
theorem nib_xor (d e : Word16) (k : Fin 4) : nib (d ^^^ e) k = nib d k ^^^ nib e k := by
  apply BitVec.eq_of_getLsbD_eq
  intro i h
  simp only [nib, BitVec.getLsbD_extractLsb', BitVec.getLsbD_xor]
  grind

/-- Two words with the same four nibbles are equal. -/
theorem word_eq_of_nibs {d e : Word16} (h0 : nib d 0 = nib e 0) (h1 : nib d 1 = nib e 1)
    (h2 : nib d 2 = nib e 2) (h3 : nib d 3 = nib e 3) : d = e := by
  rw [← packNibs_nib d, ← packNibs_nib e, h0, h1, h2, h3]

end Sys2Proof.Machine
end

