-- ==== Sys2Proof/Laws/PerInstr.lean ====
section
/-! SUPPORT. Per-instruction facts about syntax: the canonical word of every command matches the row of the opcode table that has its
mnemonic (spec/30_encoding.md R88). -/

namespace Sys2Proof.Laws.TableRow

/-- The canonical word of `i` matches its row. -/
def Statement (i : Instr) : Prop :=
  ∃ r ∈ opcodeTable, r.mnemonic = i.mnemonic ∧ r.accepts (encode i) = true

/-- The top byte of a word whose IDX is 0 is all that the mask 0xFF0000 keeps. -/
theorem mask_cmdWord (o : BitVec 4) (m : Word16) : cmdWord o 0 m &&& 0xFF0000 = cmdWord o 0 0 := by
  apply BitVec.eq_of_getLsbD_eq
  intro i h
  have hm : ∀ j < 24, (0xFF0000 : CmdWord).getLsbD j = decide (16 ≤ j) := by decide
  rw [BitVec.getLsbD_and, hm i h]
  simp only [cmdWord, BitVec.getLsbD_append]
  grind

theorem mask_cmdWord_ark (x : BitVec 2) : cmdWord 0x3 x 0 &&& 0xF30000 = 0x300000 := by
  revert x; decide

theorem nop : Statement .nop := ⟨_, List.mem_of_getElem? (i := 0) rfl, rfl, by decide⟩

theorem lds (imm : Word16) : Statement (.lds imm) :=
  ⟨_, List.mem_of_getElem? (i := 1) rfl, rfl, by simp only [OpRow.accepts, encode, mask_cmdWord]; decide⟩

theorem kex (imm : Word16) : Statement (.kex imm) :=
  ⟨_, List.mem_of_getElem? (i := 2) rfl, rfl, by simp only [OpRow.accepts, encode, mask_cmdWord]; decide⟩

theorem ark (idx : BitVec 2) : Statement (.ark idx) :=
  ⟨_, List.mem_of_getElem? (i := 3) rfl, rfl, by simp only [OpRow.accepts, encode, mask_cmdWord_ark]; decide⟩

theorem sub : Statement .sub := ⟨_, List.mem_of_getElem? (i := 4) rfl, rfl, by decide⟩

theorem shr : Statement .shr := ⟨_, List.mem_of_getElem? (i := 5) rfl, rfl, by decide⟩

theorem mix : Statement .mix := ⟨_, List.mem_of_getElem? (i := 6) rfl, rfl, by decide⟩

theorem stg : Statement .stg := ⟨_, List.mem_of_getElem? (i := 7) rfl, rfl, by decide⟩

theorem enc : Statement .enc := ⟨_, List.mem_of_getElem? (i := 8) rfl, rfl, by decide⟩

theorem sbx (n : Nibble) : Statement (.sbx n) :=
  ⟨_, List.mem_of_getElem? (i := 9) rfl, rfl, by simp only [OpRow.accepts, encode, mask_cmdWord]; decide⟩

theorem rot (b : Byte) : Statement (.rot b) :=
  ⟨_, List.mem_of_getElem? (i := 10) rfl, rfl, by simp only [OpRow.accepts, encode, mask_cmdWord]; decide⟩

theorem gfm (a b : Nibble) : Statement (.gfm a b) :=
  ⟨_, List.mem_of_getElem? (i := 11) rfl, rfl, by simp only [OpRow.accepts, encode, mask_cmdWord]; decide⟩

end Sys2Proof.Laws.TableRow
end

