-- ==== Sys2Proof/Laws/Primitives.lean ====
section
/-! SUPPORT. The laws of the primitives on all nibbles: the S-Box is a bijection (spec/40_primitives.md R119), the field laws of GFMul
(R114), Mul4 (R113), and the two procedures of R112 agree. Each is a small finite check. -/

namespace Sys2Proof.Machine

theorem sBoxLookup_injective : ∀ a b : Nibble, sBoxLookup a = sBoxLookup b → a = b := by decide

theorem gfMul_comm : ∀ a b : Nibble, gfMul a b = gfMul b a := by decide

@[simp] theorem gfMul_one : ∀ a : Nibble, gfMul a 1#4 = a := by decide

@[simp] theorem one_gfMul : ∀ a : Nibble, gfMul 1#4 a = a := by decide

@[simp] theorem gfMul_zero : ∀ a : Nibble, gfMul a 0#4 = 0#4 := by decide

theorem gfMul_xor : ∀ a b c : Nibble, gfMul a (b ^^^ c) = gfMul a b ^^^ gfMul a c := by decide

theorem gfMul_assoc : ∀ a b c : Nibble, gfMul a (gfMul b c) = gfMul (gfMul a b) c := by decide

theorem gfMul_eq_zero : ∀ a b : Nibble, gfMul a b = 0 → a = 0 ∨ b = 0 := by decide

theorem gfMul_eq_gfMulByReduction : ∀ a b : Nibble, gfMul a b = gfMulByReduction a b := by decide

theorem mul4_bits : ∀ n : Nibble,
    mul4 n = BitVec.ofBool (n.getLsbD 1) ++ BitVec.ofBool (n.getLsbD 0 ^^ n.getLsbD 3) ++
      BitVec.ofBool (n.getLsbD 2 ^^ n.getLsbD 3) ++ BitVec.ofBool (n.getLsbD 2) := by decide

theorem mul4_injective : ∀ a b : Nibble, mul4 a = mul4 b → a = b := by decide

@[simp] theorem rotNib_rotNib : ∀ b : Byte, rotNib (rotNib b) = b := by decide

end Sys2Proof.Machine
end

