-- ==== Sys2Proof/Laws/Step.lean ====
section
/-! SUPPORT. What a step does with the sample it takes, one lemma per kind of sample, and the induction over steps packaged
once (`step_preserves`). -/

namespace Sys2Proof.Machine

theorem step_idle {s : State} (h : s.inputs = []) : step s = .next s := by
  simp [step, takeInput, h]

theorem step_takes {s : State} {p : Input} {rest : List Input} (h : s.inputs = p :: rest) :
    step s = actOn p (setInputs rest s) := by
  simp [step, takeInput, h]

theorem actOn_reset {p : Input} (s : State) (h : p.rst = true) : actOn p s = .next (assertReset s) := by
  simp [actOn, h]

theorem actOn_command {p : Input} (s : State) (hr : p.rst = false) (hc : p.cmdValid = true) :
    actOn p s = executeWord p.cmd s := by
  simp [actOn, hr, hc]

theorem actOn_nothing {p : Input} (s : State) (hr : p.rst = false) (hc : p.cmdValid = false) :
    actOn p s = .next s := by
  simp [actOn, hr, hc]

theorem executeWord_locked {s : State} (w : CmdWord) (h : s.ERR = true) : executeWord w s = .next s := by
  simp [executeWord, h]

theorem executeWord_ok {s : State} {w : CmdWord} {i : Instr} (h : s.ERR = false) (hd : decode w = .ok i) :
    executeWord w s = exec i s := by
  simp [executeWord, h, hd]

theorem executeWord_illegal {s : State} {w : CmdWord} {e : DecodeError} (h : s.ERR = false)
    (hd : decode w = .error e) : executeWord w s = .next (raise .illegalEncoding s) := by
  simp [executeWord, h, hd]

/-- Everything a step can do: nothing but take a sample, reset, fault on an illegal word, or run a decoded command. -/
theorem step_cases {s t : State} (h : step s = .next t) :
    t = s ∨ ∃ p rest, s.inputs = p :: rest ∧
      (t = (setInputs rest s) ∨ (p.rst = true ∧ t = assertReset (setInputs rest s)) ∨
        (p.rst = false ∧ p.cmdValid = true ∧ s.ERR = false ∧
          ((∃ e, decode p.cmd = .error e ∧ t = raise .illegalEncoding (setInputs rest s)) ∨
            ∃ i, decode p.cmd = .ok i ∧ exec i (setInputs rest s) = .next t))) := by
  cases hi : s.inputs with
  | nil => rw [step_idle hi] at h; cases h; exact .inl rfl
  | cons p rest =>
    rw [step_takes hi] at h
    refine .inr ⟨p, rest, rfl, ?_⟩
    cases hr : p.rst with
    | true => rw [actOn_reset _ hr] at h; cases h; exact .inr (.inl ⟨rfl, rfl⟩)
    | false =>
      cases hc : p.cmdValid with
      | false => rw [actOn_nothing _ hr hc] at h; cases h; exact .inl rfl
      | true =>
        rw [actOn_command _ hr hc] at h
        cases he : s.ERR with
        | true => rw [executeWord_locked (s := setInputs rest s) _ he] at h; cases h; exact .inl rfl
        | false =>
          refine .inr (.inr ⟨rfl, rfl, rfl, ?_⟩)
          cases hd : decode p.cmd with
          | ok i => exact .inr ⟨i, rfl, (executeWord_ok (s := setInputs rest s) he hd).symm.trans h⟩
          | error e => rw [executeWord_illegal (s := setInputs rest s) he hd] at h; cases h; exact .inl ⟨e, rfl, rfl⟩

/-- A property that taking a sample, reset, the illegal word and every command keep is kept by every step. -/
theorem step_preserves {P : State → Prop} (hInput : ∀ s l, P s → P (setInputs l s))
    (hReset : ∀ s, P (assertReset s)) (hIllegal : ∀ s, P s → s.ERR = false → P (raise .illegalEncoding s))
    (hExec : ∀ i s t, P s → s.ERR = false → exec i s = .next t → P t) {s t : State} (hs : P s)
    (h : step s = .next t) : P t := by
  rcases step_cases h with rfl | ⟨p, rest, -, rfl | ⟨-, rfl⟩ | ⟨-, -, he, ⟨e, -, rfl⟩ | ⟨i, -, hi⟩⟩⟩
  · exact hs
  · exact hInput _ _ hs
  · exact hReset _
  · exact hIllegal _ (hInput _ _ hs) he
  · exact hExec i _ _ (hInput _ rest hs) he hi

end Sys2Proof.Machine
end

