-- ==== Sys2Proof/Tests/Slice0.lean ====
section
/-! SUPPORT. Tests of single steps and words, with expected values from spec/95_test_vectors.md and the rules' own examples, and
the witnesses that the hypotheses of the obligations can be met. -/

namespace Sys2Proof.Tests

open Sys2Proof Sys2Proof.Machine

/-! ### Decoding: words written bit by bit from R82, one per operation and the corners of R85 -/

theorem test_decode_nop : decode 0b0000_00_00_1111111111111111 = .ok .nop := by decide
theorem test_decode_lds : decode 0b0001_00_00_1010011101001001 = .ok (.lds 0xa749) := by decide
theorem test_decode_kex : decode 0b0010_00_00_0010110101010101 = .ok (.kex 0x2d55) := by decide
theorem test_decode_ark : decode 0b0011_01_00_1011111011101111 = .ok (.ark 1) := by decide
theorem test_decode_ark_three : decode 0x3C0000 = .ok (.ark 3) := by decide
theorem test_decode_sub : decode 0b0100_00_00_0000000000000000 = .ok .sub := by decide
theorem test_decode_shr : decode 0b0101_00_00_0000000000000000 = .ok .shr := by decide
theorem test_decode_mix : decode 0b0110_00_00_0000000000000000 = .ok .mix := by decide
theorem test_decode_stg : decode 0b0111_00_00_0000000000000001 = .ok .stg := by decide
theorem test_decode_enc : decode 0b1000_00_00_0000000000000000 = .ok .enc := by decide
theorem test_decode_sbx : decode 0x90FFF8 = .ok (.sbx 8) := by decide
theorem test_decode_rot : decode 0xA0AB2D = .ok (.rot 0x2d) := by decide
theorem test_decode_gfm : decode 0b1011_00_00_0000000001001100 = .ok (.gfm 4 0xc) := by decide
theorem test_decode_reserved : decode 0xC00000 = .error .reservedOpcode := by decide
theorem test_decode_all_ones : decode 0xFFFFFF = .error .reservedOpcode := by decide
theorem test_decode_rsv : decode 0x410000 = .error .rsvNonzero := by decide
theorem test_decode_idx : decode 0x040000 = .error .idxNonzero := by decide

/-- Canonical words of R88. -/
theorem test_encode_ark : (encode (.ark 1), encode (.ark 2), encode (.ark 3)) = (0x340000, 0x380000, 0x3C0000) := by decide

/-! ### Well-formedness and the assembler (R89) -/

theorem test_illformed_lds : (AsmCmd.lds 65536).wellFormed = false := by decide
theorem test_illformed_kex : (AsmCmd.kex 65536).wellFormed = false := by decide
theorem test_illformed_ark : (AsmCmd.ark 4).wellFormed = false := by decide
theorem test_illformed_sbx : (AsmCmd.sbx 16).wellFormed = false := by decide
theorem test_illformed_rot : (AsmCmd.rot 256).wellFormed = false := by decide
theorem test_illformed_gfm_first : (AsmCmd.gfm 16 0).wellFormed = false := by decide
theorem test_illformed_gfm_second : (AsmCmd.gfm 0 16).wellFormed = false := by decide
theorem test_wellformed_ark_three : (AsmCmd.ark 3).wellFormed = true := by decide
theorem test_asm_lds : assembleLine "LDS #0xa749".toList = .word 0x10A749 := by decide
theorem test_asm_gfm : assembleLine "GFM #4, #0xc ; the product inside V3".toList = .word 0xB0004C := by decide
theorem test_asm_ark : assembleLine "ARK 2".toList = .word 0x380000 := by decide
theorem test_asm_too_wide : assembleLine "SBX #16".toList = .rejected := by decide
theorem test_asm_ark_hash : assembleLine "ARK #1".toList = .rejected := by decide
theorem test_asm_comment : assembleLine "  ; nothing".toList = .blank := by decide

/-! ### One step of each operation -/

/-- The state an outcome answers, if it answers one. -/
def after (o : Host.Outcome State Fault Refusal) : Option State :=
  match o with
  | .next t => some t
  | .fault _ => none
  | .refused _ => none

/-- One step on the presented word. -/
def stepOn (w : Nat) (s : State) : Option State := after (step (s.withFetchWord 24 w))

/-- After `LDS #d` alone. -/
def loaded (d : Word16) : State := { State.reset with S := d, SV := true }

/-- With the key schedule of 0x2d55 (R149), the block `d` and stage `n`. -/
def ready (d : Word16) (n : BitVec 2) : State :=
  { State.reset with
    S := d, SV := true, RK0 := 0x2d55, RK1 := 0xbce9, RK2 := 0xa34a, KV := true, STAGE := n }

theorem test_nop : stepOn 0x00FFFF (ready 0xa749 1) = some (ready 0xa749 1) := by decide
theorem test_lds : stepOn 0x10A749 (ready 0x1234 2) = some (ready 0xa749 0) := by decide
theorem test_kex : (stepOn 0x204AF5 State.reset).map (fun s => (s.RK0, s.RK1, s.RK2, s.KV)) =
    some (0x4af5, 0xdd28, 0x87af, true) := by decide
theorem test_kex_last_byte : (stepOn 0x2000FF State.reset).map (fun s => (s.RK1, s.RK2)) = some (0xf708, 0xaea6) := by decide
theorem test_ark_one : (stepOn 0x340000 (ready 0xa749 0)).map (fun s => s.S) = some 0x1ba0 := by decide
theorem test_ark_index : (stepOn 0x3C0000 State.reset).map (fun s => (s.ERR, s.CAUSE)) = some (true, 2) := by decide
theorem test_sub : (stepOn 0x400000 (loaded 0x8a1c)).map (fun s => s.S) = some 0x604c := by decide
theorem test_sub_no_state : (stepOn 0x400000 State.reset).map (fun s => (s.ERR, s.CAUSE)) = some (true, 3) := by decide
theorem test_shr : (stepOn 0x500000 (loaded 0xabcd)).map (fun s => s.S) = some 0xadcb := by decide
theorem test_mix : (stepOn 0x600000 (loaded 0x6c40)).map (fun s => s.S) = some 0x3743 := by decide
theorem test_mix_columns : (stepOn 0x600000 (loaded 0xc916)).map (fun s => s.S) = some 0xeca2 := by decide
theorem test_stg_middle : (stepOn 0x700000 (ready 0x8a1c 1)).map (fun s => (s.S, s.STAGE)) = some (0x8baa, 2) := by decide
theorem test_stg_done : (stepOn 0x700000 (ready 0xc349 3)).map (fun s => (s.S, s.STAGE, s.ERR, s.CAUSE)) =
    some (0xc349, 3, true, 5) := by decide
theorem test_enc : (stepOn 0x800000 (ready 0xa749 0)).map (fun s => (s.S, s.STAGE)) = some (0xc349, 3) := by decide
theorem test_enc_no_key : (stepOn 0x800000 (loaded 0xa749)).map (fun s => (s.S, s.ERR, s.CAUSE)) =
    some (0xa749, true, 4) := by decide
theorem test_sbx : (stepOn 0x90FFF8 State.reset).map (fun s => (s.T, s.TV)) = some (0x06, true) := by decide
theorem test_rot : (stepOn 0xA0AB2D State.reset).map (fun s => (s.T, s.TV)) = some (0xd2, true) := by decide
theorem test_gfm : (stepOn 0xB000BD State.reset).map (fun s => (s.T, s.TV)) = some (0x06, true) := by decide

/-- The lowest code wins (R215): `SUB` with RSV set reports 1, not 3. -/
theorem test_priority : (stepOn 0x410000 State.reset).map (fun s => s.CAUSE) = some 1 := by decide

/-- A locked core ignores `LDS` (program P2, step 7). -/
theorem test_locked : stepOn 0x101234 (raise .stageDone (ready 0xc349 3)) = some (raise .stageDone (ready 0xc349 3)) := by
  decide

/-- Reset leaves the locked state and drops the command presented with it (program P7, R252). -/
theorem test_reset :
    (after (step { raise .stageDone (ready 0xc349 3) with inputs := [⟨true, true, 0x101234⟩] })).map
      (fun s => (s.STAGE, s.SV, s.KV, s.ERR, s.CAUSE)) =
    some (0, false, false, false, 0) := by decide

/-- A data port has no meaning before its register is written (U1). -/
theorem test_ports : (State.reset.ports.sOut, (ready 0xa749 0).ports.sOut) = (none, some 0xa749) := by decide

/-- The laws of R114 and R166 hold at their corners: 9·2 = 1, and the S-Box's one fixed point is c. -/
theorem test_gf_inverse : gfMul 9 2 = 1 ∧ sBoxLookup 0xc = 0xc := by decide

/-! ### Witnesses: the hypotheses of each obligation are met together by these states and operands -/

/-- A sample presenting a word, and a state that has it pending. -/
def waiting (w : CmdWord) (s : State) : State := present [w] s

theorem witness_StepRunsTheDecodedCommand :
    (waiting 0x400000 (loaded 0x8a1c)).inputs = ⟨false, true, 0x400000⟩ :: [] ∧
      (waiting 0x400000 (loaded 0x8a1c)).ERR = false ∧ decode 0x400000 = .ok .sub := by decide

theorem witness_DecodingProcedure :
    (waiting 0x400000 (raise .noKey State.reset)).inputs = ⟨false, true, 0x400000⟩ :: [] ∧
      (waiting 0x400000 (raise .noKey State.reset)).ERR = true ∧
      State.reset.ERR = false ∧ (∀ r ∈ opcodeTable, 0x410000 &&& r.mask ≠ r.value) ∧
      (∃ r ∈ opcodeTable, 0x3C0000 &&& r.mask = r.value) := by decide

/-- Words on both sides of each condition: the last opcode and the first reserved one, RSV, IDX, and `ARK 3`. -/
theorem witness_LegalEncodings :
    decode 0xB0FFFF = .ok (.gfm 0xf 0xf) ∧ decode 0xC00000 = .error .reservedOpcode ∧
      decode 0xB10000 = .error .rsvNonzero ∧ decode 0xB40000 = .error .idxNonzero ∧
      (0x3CBEEF : CmdWord) &&& 0xFF0000 = 0x3C0000 ∧ State.reset.ERR = false := by decide

theorem witness_ReservedOpcodesFault :
    (waiting 0xC00000 State.reset).inputs = ⟨false, true, 0xC00000⟩ :: [] ∧ State.reset.ERR = false ∧
      0xC ≤ ((0xC00000 : CmdWord).extractLsb' 20 4).toNat := by decide

theorem witness_DecodeThenEncodeIsCanonical :
    decode 0x90FFF8 = .ok (.sbx 8) ∧
      (0x90FFF8 : CmdWord) &&& (Instr.sbx 8).usedBits = 0x900008 &&& (Instr.sbx 8).usedBits := by decide

/-- The greatest operand that fits and the least that does not, of each kind. -/
theorem witness_AssembledWordNumber :
    assemble (.lds 65535) = some (.lds 0xffff) ∧ assemble (.lds 65536) = none ∧
      assemble (.kex 65535) = some (.kex 0xffff) ∧ assemble (.kex 65536) = none ∧
      assemble (.ark 3) = some (.ark 3) ∧ assemble (.ark 4) = none ∧
      assemble (.sbx 15) = some (.sbx 15) ∧ assemble (.sbx 16) = none ∧
      assemble (.rot 255) = some (.rot 255) ∧ assemble (.rot 256) = none ∧
      assemble (.gfm 15 15) = some (.gfm 15 15) ∧ assemble (.gfm 16 0) = none ∧ assemble (.gfm 0 16) = none := by decide

/-- NOP, LDS, KEX, SBX, ROT, GFM (both statements): an unlocked core and words of their rows with ignored bits set. -/
theorem witness_unconditional_rules :
    State.reset.ERR = false ∧ (0x00FFFF : CmdWord) &&& 0xFF0000 = 0x000000 ∧
      (0x10A749 : CmdWord) &&& 0xFF0000 = 0x100000 ∧ (0x202D55 : CmdWord) &&& 0xFF0000 = 0x200000 ∧
      (0x90FFF8 : CmdWord) &&& 0xFF0000 = 0x900000 ∧ (0xA0AB2D : CmdWord) &&& 0xFF0000 = 0xA00000 ∧
      (0xB0004C : CmdWord) &&& 0xFF0000 = 0xB00000 := by decide

theorem witness_RotRule : exec (.rot 0x2d) State.reset = .next { State.reset with T := 0xd2, TV := true } := rfl

/-- ARK: each clause, with the last index that names a register. -/
theorem witness_ArkRule :
    (0x38BEEF : CmdWord) &&& 0xF30000 = 0x300000 ∧ (2 : BitVec 2) ≠ 3 ∧ State.reset.SV = false ∧
      (loaded 0xa749).SV = true ∧ (loaded 0xa749).KV = false ∧ (loaded 0xa749).ERR = false ∧
      (ready 0xa749 0).SV = true ∧ (ready 0xa749 0).KV = true ∧ (ready 0xa749 0).ERR = false := by decide

theorem witness_ArkRule_twice : exec (.ark 2) (ready 0xa749 0) = .next (ready 0x0403 0) := rfl

/-- SUB, SHR, MIX: both clauses; SHR's equal nibbles and its example; MIX's S = 0 and S ≠ 0. -/
theorem witness_state_rules :
    State.reset.ERR = false ∧ State.reset.SV = false ∧ (loaded 0x2eee).ERR = false ∧ (loaded 0x2eee).SV = true ∧
      nib (loaded 0x2eee).S 1 = nib (loaded 0x2eee).S 3 ∧ (loaded 0x604c).S = 0x604c ∧
      (loaded 0).S = 0 ∧ (loaded 0).SV = true ∧ (loaded 0).ERR = false ∧ (loaded 1).S ≠ 0 ∧ (loaded 1).SV = true ∧
      (loaded 1).ERR = false ∧ (0x40FFFF : CmdWord) &&& 0xFF0000 = 0x400000 ∧ (0x50FFFF : CmdWord) &&& 0xFF0000 = 0x500000 ∧
      (0x60FFFF : CmdWord) &&& 0xFF0000 = 0x600000 := by decide

/-- STG and ENC: no state, no key, and every value of STAGE with both flags. -/
theorem witness_stage_rules :
    State.reset.SV = false ∧ (loaded 0).SV = true ∧ (loaded 0).KV = false ∧
      (∀ n : BitVec 2, (ready 0xa749 n).STAGE = n ∧ (ready 0xa749 n).SV = true ∧ (ready 0xa749 n).KV = true ∧
        (ready 0xa749 n).ERR = false) ∧
      (ready 0xa749 0).S = 0xa749 ∧ (ready 0xa749 0).RK0 = 0x2d55 ∧ (ready 0xa749 0).RK1 = 0xbce9 ∧
      (ready 0xa749 0).RK2 = 0xa34a ∧ (0x70FFFF : CmdWord) &&& 0xFF0000 = 0x700000 ∧
      (0x80FFFF : CmdWord) &&& 0xFF0000 = 0x800000 := by decide

/-- The words of R149. -/
theorem witness_KeyExpandByBytes :
    (0x2d : Byte) = (0x2d55 : Word16).extractLsb' 8 8 ∧ (0x55 : Byte) = (0x2d55 : Word16).extractLsb' 0 8 ∧
      (0xbc : Byte) = 0x2d ^^^ ((sBoxLookup ((0x55 : Byte).extractLsb' 0 4) ^^^ 0x8#4) ++
        (sBoxLookup ((0x55 : Byte).extractLsb' 4 4) ^^^ 0x0#4)) ∧
      (0xe9 : Byte) = 0x55 ^^^ 0xbc ∧
      (0xa3 : Byte) = 0xbc ^^^ ((sBoxLookup ((0xe9 : Byte).extractLsb' 0 4) ^^^ 0x3#4) ++
        (sBoxLookup ((0xe9 : Byte).extractLsb' 4 4) ^^^ 0x0#4)) ∧
      (0x4a : Byte) = 0xe9 ^^^ 0xa3 := by decide

theorem witness_KeyExpandCheckEquations : (0x0000 : Word16) ≠ 0x0001 := by decide

/-- Reset with a command presented, on a locked core (also the first clause of CauseOfEveryCommand). -/
theorem witness_ResetClearsTheControlRegisters :
    ({ raise .noKey State.reset with inputs := [⟨true, true, 0x101234⟩] } : State).inputs = ⟨true, true, 0x101234⟩ :: [] ∧
      (⟨true, true, 0x101234⟩ : Input).rst = true := by decide

theorem witness_TwoResetsEqualOne :
    ({ raise .noKey State.reset with inputs := [⟨true, true, 0x101234⟩, resetInput] } : State).inputs =
      ⟨true, true, 0x101234⟩ :: resetInput :: [] ∧ resetInput.rst = true := by decide

theorem witness_FaultsArePrecise :
    (waiting 0x400000 State.reset).inputs = ⟨false, true, 0x400000⟩ :: [] ∧ State.reset.ERR = false ∧
      after (step (waiting 0x400000 State.reset)) = some (raise .noState State.reset) ∧
      (raise .noState State.reset).ERR = true := by decide

theorem witness_LockedCoreIgnoresCommands :
    (raise .noState State.reset).ERR = true ∧
      (waiting 0xFFFFFF (raise .noState State.reset)).inputs = ⟨false, true, 0xFFFFFF⟩ :: [] := by decide

/-- The second clause: a reset leaves the locked state, a command does not. -/
theorem witness_LockedCoreIgnoresCommands_exit :
    ({ raise .noKey State.reset with inputs := [resetInput] } : State).ERR = true ∧
      (after (step { raise .noKey State.reset with inputs := [resetInput] })).map (fun t => t.ERR) = some false ∧
      (stepOn 0x101234 (raise .noKey State.reset)).map (fun t => t.ERR) = some true := by decide

/-- A locked core with an idle sample pending. -/
theorem witness_LockedCoreKeepsItsState :
    (raise .noState State.reset).ERR = true ∧
      ({ raise .noState State.reset with inputs := [⟨false, false, 0x101234⟩] } : State).inputs =
        ⟨false, false, 0x101234⟩ :: [] := by decide

/-- One word for each branch of the cause table, at the value where it begins. -/
theorem witness_CauseOfEveryCommand :
    State.reset.ERR = false ∧ State.reset.CAUSE = 0 ∧
      (stepOn 0xC00000 State.reset).map (fun t => t.CAUSE) = some 1 ∧
      (stepOn 0x3C0000 (ready 0 3)).map (fun t => t.CAUSE) = some 2 ∧
      (stepOn 0x300000 State.reset).map (fun t => t.CAUSE) = some 3 ∧
      (stepOn 0x800000 (loaded 0)).map (fun t => t.CAUSE) = some 4 ∧
      (stepOn 0x700000 (ready 0 3)).map (fun t => t.CAUSE) = some 5 ∧
      (stepOn 0x700000 (ready 0 2)).map (fun t => t.CAUSE) = some 0 := by decide

/-- The invariants hold, with their conditions true, in a state that has taken a block to STAGE = 3 and faulted there. -/
theorem witness_StepKeepsStatusConsistent : StatusInv (raise .stageDone (ready 0xc349 3)) := by
  refine ⟨⟨by decide, by decide⟩, fun _ => ⟨rfl, rfl⟩, ?_, ?_, fun _ => ⟨rfl, rfl, rfl⟩⟩
  · intro h; exact absurd h (by decide)
  · intro h; exact absurd h (by decide)

theorem witness_StepKeepsRoundKeysExpanded : KeyInv (ready 0xa749 0) ∧ (ready 0xa749 0).KV = true :=
  ⟨fun _ => ⟨by decide, by decide⟩, rfl⟩

theorem witness_FlagsStayUntilReset :
    (waiting 0x400000 (writeT 0 (ready 0xa749 0))).inputs = commandInput 0x400000 :: [] ∧
      (commandInput 0x400000).rst = false ∧ (writeT 0 (ready 0xa749 0)).SV = true ∧
      (writeT 0 (ready 0xa749 0)).KV = true ∧ (writeT 0 (ready 0xa749 0)).TV = true ∧
      (after (step (waiting 0x400000 (writeT 0 (ready 0xa749 0))))).isSome = true := by decide

/-- Each kind of register has an operation that writes it and one that does not. -/
theorem witness_OperationsWriteOnlyTheirRegisters :
    (after (exec .sub (loaded 0x8a1c))).isSome = true ∧ writesS (.kex 0) = false ∧ writesKeys .sub = false ∧
      writesT .sub = false ∧ writesStage .sub = false ∧ writesSV .sub = false := by decide

theorem witness_OnlyKexOrResetChangesKeys :
    (stepOn 0x202D55 State.reset).map (fun t => t.RK1) = some 0xbce9 ∧ State.reset.RK1 ≠ 0xbce9 := by decide

/-- Two states that differ in every data register and that the host cannot tell apart. -/
theorem witness_StepHidesUnspecifiedData :
    Indistinguishable State.reset { State.reset with S := 1, RK0 := 2, RK1 := 3, RK2 := 4, T := 5 } := ⟨rfl, rfl⟩

/-- Two different states, one locked, with the same moves pending. -/
theorem witness_RunsAfterResetShowTheSamePorts :
    (waiting 0x10A749 (ready 0xa749 2)).inputs = (waiting 0x10A749 (raise .noState State.reset)).inputs ∧
      waiting 0x10A749 (ready 0xa749 2) ≠ waiting 0x10A749 (raise .noState State.reset) := by decide

theorem witness_IdleCoreKeepsItsState :
    State.reset.inputs = [] ∧
      ({ State.reset with inputs := [⟨false, false, 0x101234⟩] } : State).inputs = ⟨false, false, 0x101234⟩ :: [] := by decide

theorem witness_ThreeCommandsEncryptABlock : State.reset.ERR = false := rfl

theorem witness_ThreeWaysToEncryptAgree :
    (ready 0xa749 2).ERR = false ∧ (ready 0xa749 2).SV = true ∧ (ready 0xa749 2).KV = true := by decide

/-- The stage of each clause, and that its primitives answer a next state. -/
theorem witness_StageIsItsPrimitives :
    (after (execAll [.ark 0] (ready 0xa749 0))).isSome = true ∧
      (after (execAll [.sub, .shr, .mix, .ark 1] (ready 0x8a1c 1))).isSome = true ∧
      (after (execAll [.sub, .shr, .ark 2] (ready 0x8baa 2))).isSome = true := by decide

/-- The first clause on a core that holds no key, the other two on one that does. -/
theorem witness_RekeyInsideABlock :
    State.reset.ERR = false ∧ State.reset.KV = false ∧ (ready 0 3).ERR = false ∧ (ready 0 3).KV = true := by decide

theorem witness_BlockResultHasNoHiddenState :
    (ready 0xa749 0).KV = true ∧ (∀ i ∈ [Instr.enc, .sbx 3], writesKeys i = false) ∧
      (after (execAll [.enc, .sbx 3] (ready 0xa749 0))).map (fun t => t.ERR) = some false := by decide

theorem witness_PortsShowTheRegisters :
    (writeT 7 (ready 1 0)).SV = true ∧ (writeT 7 (ready 1 0)).KV = true ∧ (writeT 7 (ready 1 0)).TV = true ∧
      State.reset.SV = false ∧ State.reset.KV = false ∧ State.reset.TV = false := by decide

end Sys2Proof.Tests
end

section
/-! The two matrix views of a word (spec/10_state.md R21, R22) and the reset values (R32). -/

namespace Sys2Proof.Machine

/-! The four nibbles of a word as the slices R21 writes. -/

theorem nib_zero (d : Word16) : nib d 0 = d.extractLsb' 12 4 := rfl
theorem nib_one (d : Word16) : nib d 1 = d.extractLsb' 8 4 := rfl
theorem nib_two (d : Word16) : nib d 2 = d.extractLsb' 4 4 := rfl
theorem nib_three (d : Word16) : nib d 3 = d.extractLsb' 0 4 := rfl

/-! The State matrix and its packing are inverse to each other. -/

@[simp] theorem pack_st (d : Word16) : pack (st d) = d := packNibs_nib d

@[simp] theorem st_pack (m : NibMatrix) : st (pack m) = m := by
  obtain ⟨a, b, c, d⟩ := m
  simp only [st, pack, nib_packNibs_zero, nib_packNibs_one, nib_packNibs_two, nib_packNibs_three]

/-! The cells of both views, and the two views as transposes of each other. -/

theorem st_eq_slices (d : Word16) :
    st d = ⟨d.extractLsb' 12 4, d.extractLsb' 4 4, d.extractLsb' 8 4, d.extractLsb' 0 4⟩ := by
  simp only [st, nib_zero, nib_one, nib_two, nib_three]

theorem km_eq_transpose_st (k : Word16) : km k = ⟨(st k).m00, (st k).m10, (st k).m01, (st k).m11⟩ := rfl

/-- Settles O21: the slices of a packed word are its cells, and packing the slices gives the word back. -/
theorem matrixViewsRoundTrip : Obligations.MatrixViewsRoundTrip := by
  unfold Obligations.MatrixViewsRoundTrip
  refine ⟨pack_st, st_pack, fun d => ?stCells, fun k => ?kmCells, by decide, by decide, by decide⟩
  case stCells => simp [st_eq_slices d]
  case kmCells => simp [km_eq_transpose_st k, st_eq_slices k]

/-! The S-Box ROM as the sixteen cells of R52, row after row. -/

theorem romReadSbox_eq_cells : ∀ n : Nibble, romReadSbox n =
    ([0x9, 0x4, 0xA, 0xB, 0xD, 0x1, 0x8, 0x5, 0x6, 0x2, 0x0, 0x3, 0xC, 0xE, 0xF, 0x7] : List Nibble).getD n.toNat 0 := by
  decide

/-- Settles O31: power-on and the `rst` input give the same control registers, and the ROMs hold the listed cells. -/
theorem resetValues : Obligations.ResetValues := by
  unfold Obligations.ResetValues
  refine ⟨rfl, rfl, rfl, rfl, rfl, rfl, fun s => ?afterRst, rfl, romReadSbox_eq_cells⟩
  case afterRst =>
    exact ⟨assertReset_STAGE s, assertReset_SV s, assertReset_KV s, assertReset_TV s, assertReset_ERR s,
      assertReset_CAUSE s⟩

end Sys2Proof.Machine
end

section
/-! The opcode table read field by field (spec/30_encoding.md R85, R88), which words decode and how many, and the decoding procedure
of a step (R87). -/

namespace Sys2Proof

/-! Masking acts on each field by itself, and a word is determined by its four fields. -/

@[simp] theorem fieldOpc_and (v w : CmdWord) : fieldOpc (v &&& w) = fieldOpc v &&& fieldOpc w := BitVec.extractLsb'_and
@[simp] theorem fieldIdx_and (v w : CmdWord) : fieldIdx (v &&& w) = fieldIdx v &&& fieldIdx w := BitVec.extractLsb'_and
@[simp] theorem fieldRsv_and (v w : CmdWord) : fieldRsv (v &&& w) = fieldRsv v &&& fieldRsv w := BitVec.extractLsb'_and
@[simp] theorem fieldImm_and (v w : CmdWord) : fieldImm (v &&& w) = fieldImm v &&& fieldImm w := BitVec.extractLsb'_and

theorem append_fields (w : CmdWord) : fieldOpc w ++ fieldIdx w ++ fieldRsv w ++ fieldImm w = w := by
  apply BitVec.eq_of_getLsbD_eq
  intro i hi
  simp only [fieldOpc, fieldIdx, fieldRsv, fieldImm, BitVec.getLsbD_append, BitVec.getLsbD_extractLsb']
  grind

theorem eq_iff_fields (v w : CmdWord) :
    v = w ↔ fieldOpc v = fieldOpc w ∧ fieldIdx v = fieldIdx w ∧ fieldRsv v = fieldRsv w ∧ fieldImm v = fieldImm w := by
  constructor
  · rintro rfl
    exact ⟨rfl, rfl, rfl, rfl⟩
  · rintro ⟨hopc, hidx, hrsv, himm⟩
    rw [← append_fields v, ← append_fields w, hopc, hidx, hrsv, himm]

/-- The mask 0xFF0000 clears IMM and keeps the other fields. -/
theorem fields_clear_imm (w : CmdWord) :
    fieldOpc (w &&& 0xFF0000) = fieldOpc w ∧ fieldIdx (w &&& 0xFF0000) = fieldIdx w ∧
      fieldRsv (w &&& 0xFF0000) = fieldRsv w := by
  have kept : fieldOpc 0xFF0000 = BitVec.allOnes 4 ∧ fieldIdx 0xFF0000 = BitVec.allOnes 2 ∧
      fieldRsv 0xFF0000 = BitVec.allOnes 2 := by decide
  obtain ⟨kopc, kidx, krsv⟩ := kept
  simp only [fieldOpc_and, fieldIdx_and, fieldRsv_and, kopc, kidx, krsv, BitVec.and_allOnes, and_self]

/-- Clearing IMM, on the number of the word. -/
theorem ofNat_clear_imm (n : Nat) : BitVec.ofNat 24 n &&& 0xFF0000 = BitVec.ofNat 24 (n / 2 ^ 16 * 2 ^ 16) := by
  apply BitVec.eq_of_getLsbD_eq
  intro i hi
  have hmask : ∀ j < 24, (0xFF0000 : CmdWord).getLsbD j = decide (16 ≤ j) := by decide
  rw [BitVec.getLsbD_and, hmask i hi, BitVec.getLsbD_ofNat, BitVec.getLsbD_ofNat, Nat.testBit_mul_two_pow,
    Nat.testBit_div_two_pow]
  grind

/-! The rows of the opcode table. -/

/-- Every mask keeps OPC and RSV whole and no bit of IMM; it keeps IDX in every row but that of `ARK`, whose opcode is 3. Every
value is its opcode alone. -/
theorem opcodeTable_fields : ∀ r ∈ opcodeTable,
    (fieldOpc r.mask = BitVec.allOnes 4 ∧ fieldIdx r.mask = (if fieldOpc r.value = 0x3 then 0#2 else BitVec.allOnes 2) ∧
      fieldRsv r.mask = BitVec.allOnes 2 ∧ fieldImm r.mask = 0#16) ∧
    fieldIdx r.value = 0 ∧ fieldRsv r.value = 0 ∧ fieldImm r.value = 0 := by decide

/-- "Matches row" in the fields of the word. -/
theorem matches_row_iff {r : OpRow} (hr : r ∈ opcodeTable) (w : CmdWord) :
    w &&& r.mask = r.value ↔
      fieldOpc w = fieldOpc r.value ∧ fieldRsv w = 0 ∧ (fieldIdx w = 0 ∨ fieldOpc w = 0x3) := by
  obtain ⟨⟨mopc, midx, mrsv, mimm⟩, vidx, vrsv, vimm⟩ := opcodeTable_fields r hr
  simp only [eq_iff_fields, fieldOpc_and, fieldIdx_and, fieldRsv_and, fieldImm_and, mopc, midx, mrsv, mimm, vidx, vrsv, vimm,
    BitVec.and_allOnes, BitVec.and_zero]
  by_cases hark : fieldOpc r.value = 0x3
  · simp +contextual [hark]
  · have hne : fieldOpc w = fieldOpc r.value → fieldOpc w ≠ 0x3 := fun h => h ▸ hark
    rw [if_neg hark, BitVec.and_allOnes]
    tauto

/-- No two rows share an opcode. -/
theorem opcodeTable_opc_inj :
    ∀ r ∈ opcodeTable, ∀ r' ∈ opcodeTable, fieldOpc r'.value = fieldOpc r.value → r' = r := by decide

/-- A row's opcode selects an operation of the row's mnemonic. -/
theorem selectOp_row (idx : BitVec 2) (imm : Word16) :
    ∀ r ∈ opcodeTable, ∃ i, selectOp (fieldOpc r.value) idx imm = some i ∧ i.mnemonic = r.mnemonic := by
  intro r hr
  fin_cases hr <;> exact ⟨_, rfl, rfl⟩

/-- The rows' opcodes are 0x0 to 0xB. -/
theorem exists_row_opc_iff : ∀ opc : BitVec 4, (∃ r ∈ opcodeTable, fieldOpc r.value = opc) ↔ opc.toNat ≤ 0xB := by
  decide

/-- A reserved opcode selects nothing (R201). -/
theorem selectOp_reserved {opc : BitVec 4} (h : 0xB < opc.toNat) (idx : BitVec 2) (imm : Word16) :
    selectOp opc idx imm = none := by
  have hopc : opc.toNat = 12 ∨ opc.toNat = 13 ∨ opc.toNat = 14 ∨ opc.toNat = 15 := by omega
  rcases hopc with h | h | h | h <;> simp only [selectOp, h]

/-- The opcodes that select an operation are those of the rows. -/
theorem exists_selectOp_iff (opc : BitVec 4) (idx : BitVec 2) (imm : Word16) :
    (∃ i, selectOp opc idx imm = some i) ↔ opc.toNat ≤ 0xB := by
  constructor
  · rintro ⟨i, hi⟩
    by_contra hopc
    simp [selectOp_reserved (Nat.lt_of_not_le hopc)] at hi
  · intro hopc
    obtain ⟨r, hr, rfl⟩ := (exists_row_opc_iff opc).2 hopc
    obtain ⟨i, hi, -⟩ := selectOp_row idx imm r hr
    exact ⟨i, hi⟩

/-! Which words decode. -/

/-- A word that matches a row decodes to an operation of the row's mnemonic. -/
theorem decode_of_matches_row {r : OpRow} {w : CmdWord} (hr : r ∈ opcodeTable) (hw : w &&& r.mask = r.value) :
    ∃ i, decode w = .ok i ∧ i.mnemonic = r.mnemonic := by
  obtain ⟨hopc, hrsv, hidx⟩ := (matches_row_iff hr w).1 hw
  obtain ⟨i, hi, hmn⟩ := selectOp_row (fieldIdx w) (fieldImm w) r hr
  exact ⟨i, (decode_ok_iff w i).2 ⟨hopc ▸ hi, hrsv, hidx⟩, hmn⟩

theorem matching_row_unique {r r' : OpRow} {w : CmdWord} (hr : r ∈ opcodeTable) (hr' : r' ∈ opcodeTable)
    (hw : w &&& r.mask = r.value) (hw' : w &&& r'.mask = r'.value) : r' = r := by
  obtain ⟨hopc, -, -⟩ := (matches_row_iff hr w).1 hw
  obtain ⟨hopc', -, -⟩ := (matches_row_iff hr' w).1 hw'
  exact opcodeTable_opc_inj r hr r' hr' (hopc'.symm.trans hopc)

/-- The field conditions (a), (b), (c) of R85. -/
theorem exists_decode_iff_fields (w : CmdWord) :
    (∃ i, decode w = .ok i) ↔
      (fieldOpc w).toNat ≤ 0xB ∧ fieldRsv w = 0 ∧ (fieldIdx w = 0 ∨ fieldOpc w = 0x3) := by
  simp only [decode_ok_iff, exists_and_right, exists_selectOp_iff]

theorem exists_decode_iff_row (w : CmdWord) :
    (∃ i, decode w = .ok i) ↔ ∃ r ∈ opcodeTable, w &&& r.mask = r.value := by
  constructor
  · intro h
    obtain ⟨hopc, hlegal⟩ := (exists_decode_iff_fields w).1 h
    obtain ⟨r, hr, hro⟩ := (exists_row_opc_iff (fieldOpc w)).2 hopc
    exact ⟨r, hr, (matches_row_iff hr w).2 ⟨hro.symm, hlegal⟩⟩
  · rintro ⟨r, hr, hw⟩
    obtain ⟨i, hi, -⟩ := decode_of_matches_row hr hw
    exact ⟨i, hi⟩

theorem decode_ark_three {w : CmdWord} (h : w &&& 0xFF0000 = 0x3C0000) : decode w = .ok (.ark 3) := by
  obtain ⟨hopc, hidx, hrsv⟩ := fields_clear_imm w
  rw [h] at hopc hidx hrsv
  rw [decode_ok_iff, ← hopc, ← hidx, ← hrsv]
  exact ⟨rfl, rfl, .inr rfl⟩

/-! How many words decode: the top byte OPC, IDX, RSV decides, and each of its values stands above 65536 words. -/

theorem decode_toBool_iff (w : CmdWord) : (decode w).toBool = true ↔ ∃ i, decode w = .ok i := by
  cases decode w <;> simp [Except.toBool]

/-- Clearing IMM does not change whether a word decodes. -/
theorem decode_toBool_clear_imm (n : Nat) :
    (decode (BitVec.ofNat 24 n)).toBool = (decode (BitVec.ofNat 24 (n / 2 ^ 16 * 2 ^ 16))).toBool := by
  obtain ⟨hopc, hidx, hrsv⟩ := fields_clear_imm (BitVec.ofNat 24 n)
  rw [← ofNat_clear_imm, Bool.eq_iff_iff, decode_toBool_iff, decode_toBool_iff, exists_decode_iff_fields,
    exists_decode_iff_fields, hopc, hidx, hrsv]

/-- A predicate of the quotient by `b` holds of whole blocks of `b` numbers. -/
theorem count_div_blocks (p : Nat → Prop) [DecidablePred p] (a b : Nat) :
    Nat.count (fun n => p (n / b)) (a * b) = Nat.count p a * b := by
  induction a with
  | zero => simp
  | succ a ih =>
    have hdiv : ∀ k < b, (a * b + k) / b = a := fun k hk => by
      rw [Nat.mul_comm, Nat.mul_add_div (by omega), Nat.div_eq_of_lt hk, Nat.add_zero]
    rw [Nat.succ_mul, Nat.count_add, ih, Nat.count_succ, Nat.add_mul, Nat.add_left_cancel_iff]
    by_cases ha : p a
    · rw [if_pos ha, Nat.one_mul, Nat.count_of_forall fun k hk => (hdiv k hk).symm ▸ ha]
    · rw [if_neg ha, Nat.zero_mul, Nat.count_of_forall_not fun k hk => (hdiv k hk).symm ▸ ha]

/-- Eleven opcodes allow IDX = 0 alone and `ARK` allows four indices. Counted in quarters, which keeps each evaluation shallow. -/
theorem count_legal_top_bytes :
    Nat.count (fun k => (decode (BitVec.ofNat 24 (k * 2 ^ 16))).toBool = true) (2 ^ 8) = 15 := by
  rw [show 2 ^ 8 = 64 + 64 + 64 + 64 from rfl, Nat.count_add, Nat.count_add, Nat.count_add]
  decide

theorem count_legal_words :
    Nat.count (fun n => (decode (BitVec.ofNat 24 n)).toBool = true) (2 ^ 24) = 983040 := by
  simp_rw +singlePass [decode_toBool_clear_imm]
  rw [show 2 ^ 24 = 2 ^ 8 * 2 ^ 16 from rfl,
    count_div_blocks (fun k => (decode (BitVec.ofNat 24 (k * 2 ^ 16))).toBool = true), count_legal_top_bytes]
  norm_num

end Sys2Proof

namespace Sys2Proof.Machine

/-! What a step does with a presented word. -/

theorem step_presented {s : State} {rest : List Input} {w : CmdWord} (h : s.inputs = ⟨false, true, w⟩ :: rest) :
    step s = executeWord w (setInputs rest s) :=
  (step_takes h).trans (actOn_command _ rfl rfl)

theorem executeWord_not_decoded {s : State} {w : CmdWord} (he : s.ERR = false) (h : ¬ ∃ i, decode w = .ok i) :
    executeWord w s = .next (raise .illegalEncoding s) := by
  cases hd : decode w with
  | ok i => exact absurd ⟨i, hd⟩ h
  | error e => exact executeWord_illegal he hd

theorem exec_ark_three {s : State} (he : s.ERR = false) : exec (.ark 3) s = .next (raise .keyIndex s) :=
  runCommand_error _ he

/-- Settles O3: a matching row is the word's opcode with the field conditions, so it is unique and its operation runs. -/
theorem decodingProcedure : Obligations.DecodingProcedure := by
  unfold Obligations.DecodingProcedure
  intro s rest w hin
  rw [step_presented hin]
  refine ⟨fun he => ?locked, fun he hno => ?noRow, fun r hr hw => ⟨?unique, ?runs⟩⟩
  case locked => exact executeWord_locked (s := setInputs rest s) w he
  case noRow =>
    have hillegal : ¬ ∃ i, decode w = .ok i := by
      rw [exists_decode_iff_row]
      rintro ⟨r, hr, hw⟩
      exact hno r hr hw
    exact executeWord_not_decoded (s := setInputs rest s) he hillegal
  case unique => exact fun r' hr' hw' => matching_row_unique hr hr' hw hw'
  case runs =>
    obtain ⟨i, hi, hmn⟩ := decode_of_matches_row hr hw
    exact ⟨i, hi, hmn, fun he => executeWord_ok (s := setInputs rest s) he hi⟩

/-- Settles O4: both legality conditions are those of the fields, and the count goes over the 256 top bytes. -/
theorem legalEncodings : Obligations.LegalEncodings := by
  unfold Obligations.LegalEncodings
  refine ⟨exists_decode_iff_row, exists_decode_iff_fields, fun s rest w hin he => ?faults, ?count⟩
  case faults =>
    rw [step_presented hin]
    refine ⟨executeWord_not_decoded (s := setInputs rest s) he, fun hark => ?_⟩
    rw [executeWord_ok (s := setInputs rest s) he (decode_ark_three hark)]
    exact exec_ark_three (s := setInputs rest s) he
  case count =>
    rw [← List.countP_eq_length_filter]
    simpa only [Nat.count, Bool.decide_eq_true] using count_legal_words

end Sys2Proof.Machine
end

section
/-! The primitive operations SBX, ROT and GFM (spec/40_primitives.md R115 to R117). -/

namespace Sys2Proof

/-- A word whose bits above IMM are those of `v`, with IDX and RSV 0 there, decodes to what the opcode of `v` selects. -/
theorem decode_of_clear_imm {w v : CmdWord} {i : Instr} (h : w &&& 0xFF0000 = v) (hidx : fieldIdx v = 0)
    (hrsv : fieldRsv v = 0) (hi : selectOp (fieldOpc v) 0 (fieldImm w) = some i) : decode w = .ok i := by
  obtain ⟨wopc, widx, wrsv⟩ := fields_clear_imm w
  rw [h] at wopc widx wrsv
  rw [decode_ok_iff, ← wopc, ← widx, ← wrsv, hidx]
  exact ⟨hi, hrsv, .inl rfl⟩

end Sys2Proof

namespace Sys2Proof.Machine

/-! The row of each of the three operations, with the operands sliced from the word as R82 places them in IMM. -/

theorem decode_sbx {w : CmdWord} (h : w &&& 0xFF0000 = 0x900000) : decode w = .ok (.sbx (w.extractLsb' 0 4)) := by
  rw [decode_of_clear_imm h rfl rfl rfl, fieldImm, BitVec.extractLsb'_extractLsb'_of_le (by decide)]

theorem decode_rot {w : CmdWord} (h : w &&& 0xFF0000 = 0xA00000) : decode w = .ok (.rot (w.extractLsb' 0 8)) := by
  rw [decode_of_clear_imm h rfl rfl rfl, fieldImm, BitVec.extractLsb'_extractLsb'_of_le (by decide)]

theorem decode_gfm {w : CmdWord} (h : w &&& 0xFF0000 = 0xB00000) :
    decode w = .ok (.gfm (w.extractLsb' 4 4) (w.extractLsb' 0 4)) := by
  rw [decode_of_clear_imm h rfl rfl rfl, fieldImm, BitVec.extractLsb'_extractLsb'_of_le (by decide),
    BitVec.extractLsb'_extractLsb'_of_le (by decide)]

/-! The values the three operations write to T. -/

theorem zextNibble_eq_setWidth : ∀ n : Nibble, zextNibble n = n.setWidth 8 := by decide

/-- The S-Box cells of R52, row after row, as T shows them. -/
theorem zextNibble_sBoxLookup_eq_cells : ∀ n : Nibble, zextNibble (sBoxLookup n) =
    ([0x9, 0x4, 0xA, 0xB, 0xD, 0x1, 0x8, 0x5, 0x6, 0x2, 0x0, 0x3, 0xC, 0xE, 0xF, 0x7] : List Byte).getD n.toNat 0 := by
  decide

@[simp] theorem zero_gfMul (a : Nibble) : gfMul 0#4 a = 0#4 := by
  rw [gfMul_comm, gfMul_zero]

@[simp] theorem writeT_writeT (v w : Byte) (s : State) : writeT v (writeT w s) = writeT v s := rfl

/-- Two `ROT` in a row, the second on the byte the first left in T, leave the first operand there (R111). -/
theorem exec_rot_of_exec_rot {s t : State} {b : Byte} (he : s.ERR = false) (h : exec (.rot b) s = .next t) :
    exec (.rot t.T) t = .next (writeT b s) := by
  rw [exec_rot b he] at h
  cases h
  rw [exec_rot (s := writeT (rotNib b) s) _ he, writeT_T, rotNib_rotNib, writeT_writeT]

/-- `GFM` with the product as the zero extension R117 writes. -/
theorem exec_gfm_setWidth {s : State} (a b : Nibble) (he : s.ERR = false) :
    exec (.gfm a b) s = .next (writeT ((gfMul a b).setWidth 8) s) := by
  rw [exec_gfm a b he, zextNibble_eq_setWidth]

/-- Settles O18: SBX writes the S-Box cell its operand names. -/
theorem sbxRule : Obligations.SbxRule := by
  unfold Obligations.SbxRule
  refine ⟨fun w h => decode_sbx h, fun s n he => ?_⟩
  rw [exec_sbx n he, zextNibble_sBoxLookup_eq_cells]
  rfl

/-- Settles O19: ROT swaps the nibbles, and the swap is its own inverse. -/
theorem rotRule : Obligations.RotRule := by
  unfold Obligations.RotRule
  exact ⟨fun w h => decode_rot h, fun s b he => exec_rot b he, fun s t b he h => exec_rot_of_exec_rot he h⟩

/-- Settles O20: GFM writes the field product; 0 absorbs and 1 is neutral on either side. -/
theorem gfmRule : Obligations.GfmRule := by
  unfold Obligations.GfmRule
  refine ⟨fun w h => decode_gfm h, fun s a b he => exec_gfm_setWidth a b he, fun s a he => ?corners, by decide, by decide,
    by decide, by decide⟩
  case corners =>
    have product : ∀ x y z : Nibble, gfMul x y = z → exec (.gfm x y) s = .next (writeT (z.setWidth 8) s) := by
      rintro x y _ rfl
      exact exec_gfm_setWidth x y he
    exact ⟨product a 0 0 (gfMul_zero a), product 0 a 0 (zero_gfMul a), product a 1 a (gfMul_one a),
      product 1 a a (one_gfMul a)⟩

end Sys2Proof.Machine
end

section
/-! The key schedule and its operation KEX (spec/41_key_schedule.md R141 to R144, R148). -/

namespace Sys2Proof.Machine

/-! The function G of R142. -/

/-- Xor acts on each half of a byte by itself. -/
theorem packByte_xor (h l h' l' : Nibble) :
    packByte h l ^^^ packByte h' l' = packByte (h ^^^ h') (l ^^^ l') := BitVec.xor_append

theorem subByte_rotNib (w : Byte) : subByte (rotNib w) = packByte (sBoxLookup (lo w)) (sBoxLookup (hi w)) := by
  simp only [subByte, rotNib, hi_packByte, lo_packByte]

/-- G nibble by nibble, as R142 spells it out. -/
theorem g_eq_nibbles (w : Byte) (i : Fin 2) :
    g w i = packByte (sBoxLookup (lo w) ^^^ hi (romReadRcon i)) (sBoxLookup (hi w) ^^^ lo (romReadRcon i)) := by
  calc g w i
    _ = packByte (sBoxLookup (lo w)) (sBoxLookup (hi w)) ^^^ packByte (hi (romReadRcon i)) (lo (romReadRcon i)) := by
        rw [g, subByte_rotNib, packByte_hi_lo]
    _ = _ := packByte_xor _ _ _ _

theorem g_zero (w : Byte) : g w 0 = packByte (sBoxLookup (lo w) ^^^ 0x8) (sBoxLookup (hi w) ^^^ 0x0) := g_eq_nibbles w 0

theorem g_one (w : Byte) : g w 1 = packByte (sBoxLookup (lo w) ^^^ 0x3) (sBoxLookup (hi w) ^^^ 0x0) := g_eq_nibbles w 1

/-! The round keys. -/

/-- The first round key is the master key (R144). -/
@[simp] theorem keyExpand_k0 (k : Word16) : (keyExpand k).k0 = k := pack16_bytes k

/-- The worked expansion of R149. -/
theorem keyExpand_example : keyExpand 0x2d55 = ⟨0x2d55, 0xbce9, 0xa34a⟩ := by decide

/-- Settles O22: the bytes are those of the definition, once G is written nibble by nibble. -/
theorem keyExpandByBytes : Obligations.KeyExpandByBytes := by
  unfold Obligations.KeyExpandByBytes
  intro k w0 w1 w2 w3 w4 w5 h0 h1 h2 h3 h4 h5
  have hg0 : w2 = w0 ^^^ g w1 0 := by rw [g_zero]; exact h2
  have hg1 : w4 = w2 ^^^ g w3 1 := by rw [g_one]; exact h4
  have hk : keyExpand k = ⟨w0 ++ w1, w2 ++ w3, w4 ++ w5⟩ := by
    rw [h5, hg1, h3, hg0, h1, h0]
    rfl
  exact ⟨keyExpand_k0 k, congrArg RoundKeys.k0 hk, congrArg RoundKeys.k1 hk, congrArg RoundKeys.k2 hk⟩

/-! The row of KEX and what it writes. -/

theorem decode_kex {w : CmdWord} (h : w &&& 0xFF0000 = 0x200000) : decode w = .ok (.kex (w.extractLsb' 0 16)) :=
  decode_of_clear_imm h rfl rfl rfl

/-- Settles O11: the first of the three keys written is the operand itself. -/
theorem kexRule : Obligations.KexRule := by
  unfold Obligations.KexRule
  refine ⟨fun w h => decode_kex h, fun s k he => ?writes, fun s he => ?vector⟩
  case writes =>
    rw [exec_kex k he, keyExpand_k0]
    rfl
  case vector =>
    rw [exec_kex 0x2d55 he, keyExpand_example]
    rfl

end Sys2Proof.Machine
end

section
/-! The four functions of the round pipeline (spec/42_round_pipeline.md R160 to R163), nibble by nibble. -/

namespace Sys2Proof.Machine

/-! AddKey: xor, on each nibble by itself. -/

@[simp] theorem nib_addKey (d k : Word16) (j : Fin 4) : nib (addKey d k) j = nib d j ^^^ nib k j := nib_xor d k j

theorem addKey_comm (d k : Word16) : addKey d k = addKey k d := BitVec.xor_comm d k

@[simp] theorem addKey_addKey (d k : Word16) : addKey (addKey d k) k = d := xor_cancel_right d k

/-- Settles O24: the cells of both views are nibbles, the key view's transposed, and xor goes nibble by nibble. -/
theorem addKeyByCells : Obligations.AddKeyByCells := by
  unfold Obligations.AddKeyByCells
  refine ⟨nib_addKey, fun d k => ?cells, fun d k => ⟨rfl, addKey_comm d k, addKey_addKey d k⟩, by decide⟩
  case cells => simp only [km_eq_transpose_st, st, nib_addKey, and_self]

/-! SubNib: the S-Box on each nibble by itself. -/

@[simp] theorem nib_subNib (d : Word16) (j : Fin 4) : nib (subNib d) j = sBoxLookup (nib d j) := by
  match j with
  | 0 => exact nib_packNibs_zero ..
  | 1 => exact nib_packNibs_one ..
  | 2 => exact nib_packNibs_two ..
  | 3 => exact nib_packNibs_three ..

/-- Settles O25: the State's cells are nibbles, and SubNib moves none. -/
theorem subNibPerNibble : Obligations.SubNibPerNibble := by
  unfold Obligations.SubNibPerNibble
  refine ⟨nib_subNib, fun d => ?cells, by decide, by decide⟩
  case cells => simp only [st, nib_subNib]

/-! ShiftRow: nibbles 1 and 3 change places. -/

@[simp] theorem nib_shiftRow_zero (d : Word16) : nib (shiftRow d) 0 = nib d 0 := nib_packNibs_zero ..
@[simp] theorem nib_shiftRow_one (d : Word16) : nib (shiftRow d) 1 = nib d 3 := nib_packNibs_one ..
@[simp] theorem nib_shiftRow_two (d : Word16) : nib (shiftRow d) 2 = nib d 2 := nib_packNibs_two ..
@[simp] theorem nib_shiftRow_three (d : Word16) : nib (shiftRow d) 3 = nib d 1 := nib_packNibs_three ..

@[simp] theorem shiftRow_shiftRow (d : Word16) : shiftRow (shiftRow d) = d := by
  apply word_eq_of_nibs <;> simp

theorem shiftRow_of_equal_row_one {d : Word16} (h : nib d 1 = nib d 3) : shiftRow d = d := by
  apply word_eq_of_nibs <;> simp [h]

/-- Settles O26: the word order is the definition, and exchanging the same two nibbles twice cancels. -/
theorem shiftRowSwapsRowOne : Obligations.ShiftRowSwapsRowOne := by
  unfold Obligations.ShiftRowSwapsRowOne
  refine ⟨fun d => ?order, fun d => ?cells, shiftRow_shiftRow, by decide⟩
  case order => rw [shiftRow, packNibs, nib_zero, nib_one, nib_two, nib_three]
  case cells => simp only [st, nib_shiftRow_zero, nib_shiftRow_one, nib_shiftRow_two, nib_shiftRow_three]

/-! MixCol: each column by itself, through the two rows of the mix matrix. -/

theorem mixTop_eq (a b : Nibble) : mixTop a b = gfMul 1 a ^^^ gfMul 4 b := rfl

theorem mixBottom_eq (a b : Nibble) : mixBottom a b = gfMul 4 a ^^^ gfMul 1 b := rfl

theorem mixTop_eq_mul4 (a b : Nibble) : mixTop a b = a ^^^ mul4 b :=
  congrArg (· ^^^ mul4 b) (one_gfMul a)

theorem mixBottom_eq_mul4 (a b : Nibble) : mixBottom a b = mul4 a ^^^ b :=
  congrArg (mul4 a ^^^ ·) (one_gfMul b)

@[simp] theorem nib_mixCol_zero (d : Word16) : nib (mixCol d) 0 = mixTop (nib d 0) (nib d 1) := nib_packNibs_zero ..
@[simp] theorem nib_mixCol_one (d : Word16) : nib (mixCol d) 1 = mixBottom (nib d 0) (nib d 1) := nib_packNibs_one ..
@[simp] theorem nib_mixCol_two (d : Word16) : nib (mixCol d) 2 = mixTop (nib d 2) (nib d 3) := nib_packNibs_two ..
@[simp] theorem nib_mixCol_three (d : Word16) : nib (mixCol d) 3 = mixBottom (nib d 2) (nib d 3) := nib_packNibs_three ..

/-- Settles O27: each cell is a row of the matrix times its column, and multiplying by 1 changes nothing. -/
theorem mixColByMatrix : Obligations.MixColByMatrix := by
  unfold Obligations.MixColByMatrix
  refine ⟨fun d => ?cells, fun d => ?word, by decide⟩
  case cells =>
    simp only [st, nib_mixCol_zero, nib_mixCol_one, nib_mixCol_two, nib_mixCol_three, mixTop_eq, mixBottom_eq]
  case word => simp only [mixCol, mixTop_eq_mul4, mixBottom_eq_mul4]

/-! The square of the mix matrix is 2 times the identity, so MixCol twice multiplies every nibble by 2. -/

theorem mixTop_mixTop_mixBottom : ∀ a b : Nibble, mixTop (mixTop a b) (mixBottom a b) = gfMul 2 a := by decide

theorem mixBottom_mixTop_mixBottom : ∀ a b : Nibble, mixBottom (mixTop a b) (mixBottom a b) = gfMul 2 b := by decide

theorem nib_mixCol_mixCol (d : Word16) (j : Fin 4) : nib (mixCol (mixCol d)) j = gfMul 2 (nib d j) := by
  match j with
  | 0 => rw [nib_mixCol_zero, nib_mixCol_zero, nib_mixCol_one, mixTop_mixTop_mixBottom]
  | 1 => rw [nib_mixCol_one, nib_mixCol_zero, nib_mixCol_one, mixBottom_mixTop_mixBottom]
  | 2 => rw [nib_mixCol_two, nib_mixCol_two, nib_mixCol_three, mixTop_mixTop_mixBottom]
  | 3 => rw [nib_mixCol_three, nib_mixCol_two, nib_mixCol_three, mixBottom_mixTop_mixBottom]

theorem mixCol_zero : mixCol 0 = 0 := by decide

theorem eq_zero_of_two_gfMul_self : ∀ a : Nibble, gfMul 2 a = a → a = 0 := by decide

/-- MixCol twice restores no word but 0. -/
theorem eq_zero_of_mixCol_mixCol_self {d : Word16} (h : mixCol (mixCol d) = d) : d = 0 := by
  have hnib : ∀ j, nib d j = 0 := fun j =>
    eq_zero_of_two_gfMul_self _ (by rw [← nib_mixCol_mixCol, h])
  exact word_eq_of_nibs (hnib 0) (hnib 1) (hnib 2) (hnib 3)

/-! The stages and the whole block written out (R164, R165). -/

theorem encryptBlock_eq (p k0 k1 k2 : Word16) : encryptBlock p k0 k1 k2 =
    shiftRow (subNib (mixCol (shiftRow (subNib (p ^^^ k0))) ^^^ k1)) ^^^ k2 := rfl

/-- The worked encryption of R173. -/
theorem encryptBlock_example : encryptBlock 0xa749 0x2d55 0xbce9 0xa34a = 0xc349 := by decide

end Sys2Proof.Machine
end

section
/-! The faults of the pipeline's operations on an unlocked core, in the order of their checks (spec/60_exceptions.md R211, R215), and
the laws of repeated writes of S. -/

namespace Sys2Proof.Machine

variable {s : State} {i : Instr}

/-- An index or stage other than 3 names one of the three. -/
theorem exists_threeOf_eq_some {x : BitVec 2} (h : x ≠ 3) : ∃ j, threeOf x = some j := by
  rcases threeOf_cases x with ⟨h3, -⟩ | ⟨-, hj⟩ | ⟨-, hj⟩ | ⟨-, hj⟩
  · exact absurd h3 h
  all_goals exact ⟨_, hj⟩

theorem exists_requireIndex_eq_ok {x : BitVec 2} (h : x ≠ 3) : ∃ j, requireIndex x = .ok j := by
  obtain ⟨j, hj⟩ := exists_threeOf_eq_some h
  exact ⟨j, by rw [requireIndex, hj]⟩

theorem requireStage_three (hg : s.STAGE = 3) : requireStage s = .error .stageDone := by
  rw [requireStage, hg]
  rfl

/-- SV = 0 is the first fault of every operation that reads S, after the index of `ARK`. -/
theorem exec_noState (hi : readsS i = true) (h3 : i ≠ .ark 3) (he : s.ERR = false) (hs : s.SV = false) :
    exec i s = .next (raise .noState s) := by
  cases i with
  | ark x =>
    obtain ⟨j, hj⟩ := exists_requireIndex_eq_ok (x := x) fun h => h3 (congrArg _ h)
    simp only [exec, execArk, hj, requireState_missing hs]
    exact runCommand_error _ he
  | sub | shr | mix | stg | enc =>
    simp only [exec, execSub, execShr, execMix, execStg, execEnc, requireState_missing hs]
    exact runCommand_error _ he
  | nop | lds | kex | sbx | rot | gfm => exact absurd hi Bool.false_ne_true

/-- KV = 0 is the next fault of every operation that reads a round key. -/
theorem exec_noKey (hi : readsKeys i = true) (h3 : i ≠ .ark 3) (he : s.ERR = false) (hs : s.SV = true)
    (hk : s.KV = false) : exec i s = .next (raise .noKey s) := by
  cases i with
  | ark x =>
    obtain ⟨j, hj⟩ := exists_requireIndex_eq_ok (x := x) fun h => h3 (congrArg _ h)
    simp only [exec, execArk, hj, requireState_valid hs, requireKey_missing hk]
    exact runCommand_error _ he
  | stg | enc =>
    simp only [exec, execStg, execEnc, requireState_valid hs, requireKey_missing hk]
    exact runCommand_error _ he
  | nop | lds | kex | sub | shr | mix | sbx | rot | gfm => exact absurd hi Bool.false_ne_true

/-- `STG` in the terminal stage faults. -/
theorem exec_stg_stageDone (he : s.ERR = false) (hs : s.SV = true) (hk : s.KV = true) (hg : s.STAGE = 3) :
    exec .stg s = .next (raise .stageDone s) := by
  simp only [exec, execStg, requireState_valid hs, requireKey_valid hk, requireStage_three hg]
  exact runCommand_error _ he

/-! Writing S again, and writing what it holds. -/

@[simp] theorem writeS_writeS (v w : Word16) (s : State) : writeS v (writeS w s) = writeS v s := rfl
@[simp] theorem writeS_self (s : State) : writeS s.S s = s := rfl
@[simp] theorem rk_writeS (v : Word16) (s : State) (j : Fin 3) : (writeS v s).rk j = s.rk j := rfl

end Sys2Proof.Machine
end

section
/-! The operations of the round pipeline (spec/42_round_pipeline.md R167 to R173). -/

namespace Sys2Proof

/-- The row of `ARK` alone leaves IDX free. -/
theorem decode_ark {w : CmdWord} (h : w &&& 0xF30000 = 0x300000) : decode w = .ok (.ark (w.extractLsb' 18 2)) := by
  have hrow : (⟨"ARK", 0x300000, 0xF30000⟩ : OpRow) ∈ opcodeTable := List.mem_of_getElem? (i := 3) rfl
  obtain ⟨hopc, hlegal⟩ := (matches_row_iff hrow w).1 h
  rw [decode_ok_iff, hopc]
  exact ⟨rfl, hopc ▸ hlegal⟩

end Sys2Proof

namespace Sys2Proof.Machine

/-- Settles O10: LDS checks nothing and writes the three registers at once. -/
theorem ldsRule : Obligations.LdsRule := by
  unfold Obligations.LdsRule
  exact ⟨fun w h => decode_of_clear_imm h rfl rfl rfl, fun s p he => exec_lds p he⟩

/-- The same `ARK` twice restores the state: the second xors the same key, which the first left alone. -/
theorem exec_ark_of_exec_ark {s t : State} {x : BitVec 2} (hx : x ≠ 3) (he : s.ERR = false) (hs : s.SV = true)
    (hk : s.KV = true) (h : exec (.ark x) s = .next t) : exec (.ark x) t = .next s := by
  obtain ⟨j, hj⟩ := exists_threeOf_eq_some hx
  rw [exec_ark hj he hs hk] at h
  cases h
  rw [exec_ark (s := writeS (addKey s.S (s.rk j)) s) hj he hs hk, writeS_S, rk_writeS, addKey_addKey, writeS_writeS, writeS_self]

/-- Settles O12: the three checks in order, then one xor per index. -/
theorem arkRule : Obligations.ArkRule := by
  unfold Obligations.ArkRule
  refine ⟨fun w h => decode_ark h, fun s he => ⟨exec_ark_three he, fun x hx hs => ?noState, fun x hx hs hk => ?noKey,
    fun hs hk => ⟨exec_ark (i := 0) rfl he hs hk, exec_ark (i := 1) rfl he hs hk, exec_ark (i := 2) rfl he hs hk,
      fun x t hx h => exec_ark_of_exec_ark hx he hs hk h⟩⟩⟩
  case noState => exact exec_noState rfl (by simpa using hx) he hs
  case noKey => exact exec_noKey rfl (by simpa using hx) he hs hk

/-- Settles O13: one check, then SubNib. -/
theorem subRule : Obligations.SubRule := by
  unfold Obligations.SubRule
  refine ⟨fun w h => decode_of_clear_imm h rfl rfl rfl, fun s he => ⟨fun hs => ?noState, fun hs => exec_sub he hs⟩,
    by decide, by decide, by decide, by decide, by decide⟩
  case noState => exact exec_noState rfl (by decide) he hs

/-- Settles O14: one check, then ShiftRow, which cancels itself and does not see equal nibbles. -/
theorem shrRule : Obligations.ShrRule := by
  unfold Obligations.ShrRule
  refine ⟨fun w h => decode_of_clear_imm h rfl rfl rfl, fun s he => ⟨fun hs => ?noState,
    fun hs => ⟨exec_shr he hs, ?twice, fun heq => ?equalNibbles⟩, fun hs hS => ?vector⟩⟩
  case noState => exact exec_noState rfl (by decide) he hs
  case twice =>
    change exec .shr (writeS (shiftRow s.S) s) = .next s
    rw [exec_shr (s := writeS (shiftRow s.S) s) he hs, writeS_S, shiftRow_shiftRow, writeS_writeS, writeS_self]
  case equalNibbles => rw [exec_shr he hs, shiftRow_of_equal_row_one heq, writeS_self]
  case vector =>
    have hvec : shiftRow 0x604c = 0x6c40 := by decide
    rw [exec_shr he hs, hS, hvec]
    rfl

/-- Two `MIX` in a row. -/
theorem execAll_mix_mix {s : State} (he : s.ERR = false) (hs : s.SV = true) :
    execAll [.mix, .mix] s = .next (writeS (mixCol (mixCol s.S)) s) := by
  rw [execAll_cons (exec_mix he hs), execAll_cons (exec_mix (s := writeS (mixCol s.S) s) he hs)]
  rfl

/-- Settles O15: two `MIX` multiply every nibble by 2, and only 0 is its own double. -/
theorem mixRule : Obligations.MixRule := by
  unfold Obligations.MixRule
  refine ⟨fun w h => decode_of_clear_imm h rfl rfl rfl, fun s he => ⟨fun hs => ?noState,
    fun hs => ⟨exec_mix he hs, fun hS => ?zero, fun hS => ?twice⟩⟩, by decide, by decide, by decide, by decide⟩
  case noState => exact exec_noState rfl (by decide) he hs
  case zero =>
    have hfix : mixCol s.S = s.S := by rw [hS, mixCol_zero]
    rw [exec_mix he hs, hfix, writeS_self]
  case twice => exact ⟨_, execAll_mix_mix he hs, fun h => hS (eq_zero_of_mixCol_mixCol_self h)⟩

/-- `STG` at the stage number `n`. -/
theorem exec_stg_at {s : State} {n : BitVec 2} {j : Fin 3} (hg : s.STAGE = n) (hj : threeOf n = some j)
    (he : s.ERR = false) (hs : s.SV = true) (hk : s.KV = true) :
    exec .stg s = .next (writeStage (stage j s.S s.RK0 s.RK1 s.RK2) (n + 1) s) := by
  subst hg
  exact exec_stg hj he hs hk

/-- Settles O16: the checks in order, then the stage that STAGE numbers; 3 numbers none. -/
theorem stgRule : Obligations.StgRule := by
  unfold Obligations.StgRule
  refine ⟨fun w h => decode_of_clear_imm h rfl rfl rfl, fun s he => ⟨fun hs => ?noState, fun hs hk => ?noKey,
    fun hs hk => ⟨fun hg => exec_stg_at hg rfl he hs hk, fun hg => exec_stg_at hg rfl he hs hk,
      fun hg => exec_stg_at hg rfl he hs hk, fun hg => exec_stg_stageDone he hs hk hg⟩⟩,
    by decide, by decide, by decide⟩
  case noState => exact exec_noState rfl (by decide) he hs
  case noKey => exact exec_noKey rfl (by decide) he hs hk

/-- Settles O17: the checks in order, then EncryptBlock, with no check of STAGE. -/
theorem encRule : Obligations.EncRule := by
  unfold Obligations.EncRule
  refine ⟨fun w h => decode_of_clear_imm h rfl rfl rfl, fun s he => ⟨fun hs => ?noState, fun hs hk => ?noKey,
    fun hs hk => ⟨?block, fun hS h0 h1 h2 => ?vector⟩⟩⟩
  case noState => exact exec_noState rfl (by decide) he hs
  case noKey => exact exec_noKey rfl (by decide) he hs hk
  case block =>
    rw [exec_enc he hs hk, encryptBlock_eq]
    rfl
  case vector =>
    have hvec : encryptBlock s.S s.RK0 s.RK1 s.RK2 = 0xc349 := by rw [hS, h0, h1, h2, encryptBlock_example]
    rw [exec_enc he hs hk, hvec]
    rfl

end Sys2Proof.Machine
end

section
/-! The idle command and the reserved opcodes (spec/43_system.md R200, R201). -/

namespace Sys2Proof

/-- The legal opcodes end at 0xB, whatever RSV, IDX and IMM hold. -/
theorem not_exists_decode_of_reserved {w : CmdWord} (h : 0xC ≤ (fieldOpc w).toNat) : ¬ ∃ i, decode w = .ok i := by
  rw [exists_decode_iff_fields]
  rintro ⟨hopc, -⟩
  omega

end Sys2Proof

namespace Sys2Proof.Machine

/-- Settles O5: a reserved opcode does not decode, so the presented word raises ILLEGAL_ENCODING. -/
theorem reservedOpcodesFault : Obligations.ReservedOpcodesFault := by
  unfold Obligations.ReservedOpcodesFault
  intro s rest w hin he hopc
  rw [step_presented hin]
  exact executeWord_not_decoded (s := setInputs rest s) he (not_exists_decode_of_reserved hopc)

/-- Settles O9: the row's words differ only in the ignored IMM, and NOP completes with the state it was given. -/
theorem nopRule : Obligations.NopRule := by
  unfold Obligations.NopRule
  exact ⟨by decide, fun w h => decode_of_clear_imm h rfl rfl rfl, exec_nop⟩

end Sys2Proof.Machine
end

section
/-! What the opcode and the index of a legal word say about its operation
(spec/30_encoding.md R81 to R84, spec/60_exceptions.md R211). -/

namespace Sys2Proof

/-- The canonical word of the operation that an opcode selects has this opcode again. -/
theorem fieldOpc_encode_of_selectOp {o : BitVec 4} {x : BitVec 2} {m : Word16} {i : Instr}
    (h : selectOp o x m = some i) : fieldOpc (encode i) = o := by
  unfold selectOp at h
  split at h <;> cases h <;> simp only [encode, fieldOpc_cmdWord] <;> bv_omega

theorem fieldOpc_encode_of_decode {w : CmdWord} {i : Instr} (hd : decode w = .ok i) :
    fieldOpc (encode i) = fieldOpc w :=
  fieldOpc_encode_of_selectOp ((decode_ok_iff w i).1 hd).1

/-- The illegal words are those that break one of the field conditions of R85. -/
theorem not_exists_decode_iff_fields (w : CmdWord) :
    (¬ ∃ i, decode w = .ok i) ↔
      0xC ≤ (fieldOpc w).toNat ∨ fieldRsv w ≠ 0 ∨ ((fieldIdx w).toNat ≠ 0 ∧ (fieldOpc w).toNat ≠ 3) := by
  rw [exists_decode_iff_fields, ← BitVec.toNat_inj (x := fieldIdx w), ← BitVec.toNat_inj (x := fieldOpc w), not_and_or,
    not_and_or, not_or, not_le]
  rfl

end Sys2Proof

namespace Sys2Proof.Machine

variable {w : CmdWord} {i : Instr}

/-- Every operation that reads a round key reads S too. -/
theorem readsS_of_readsKeys (h : readsKeys i = true) : readsS i = true := by
  cases i with
  | ark | stg | enc => rfl
  | nop | lds | kex | sub | shr | mix | sbx | rot | gfm => exact absurd h Bool.false_ne_true

/-- The operations that read S have the opcodes 3 to 8. -/
theorem readsS_iff_of_decode (hd : decode w = .ok i) :
    readsS i = true ↔ 3 ≤ (fieldOpc w).toNat ∧ (fieldOpc w).toNat ≤ 8 := by
  rw [← fieldOpc_encode_of_decode hd]
  cases i <;> simp [readsS, encode]

/-- The operations that read a round key have the opcodes 3, 7 and 8. -/
theorem readsKeys_iff_of_decode (hd : decode w = .ok i) :
    readsKeys i = true ↔ (fieldOpc w).toNat = 3 ∨ (fieldOpc w).toNat = 7 ∨ (fieldOpc w).toNat = 8 := by
  rw [← fieldOpc_encode_of_decode hd]
  cases i <;> simp [readsKeys, encode]

theorem eq_stg_iff_of_decode (hd : decode w = .ok i) : i = .stg ↔ (fieldOpc w).toNat = 7 := by
  rw [← fieldOpc_encode_of_decode hd]
  cases i <;> simp [encode]

/-- `ARK` alone takes its operand from IDX. -/
theorem eq_ark_iff_of_decode (hd : decode w = .ok i) (x : BitVec 2) :
    i = .ark x ↔ (fieldOpc w).toNat = 3 ∧ (fieldIdx w).toNat = x.toNat := by
  rw [BitVec.toNat_inj]
  obtain ⟨hsel, -⟩ := (decode_ok_iff w i).1 hd
  have hark (hopc : (fieldOpc w).toNat = 3) : i = .ark (fieldIdx w) := by simpa [selectOp, hopc] using hsel.symm
  constructor
  · rintro rfl
    have hopc : (fieldOpc w).toNat = 3 := by simp [← fieldOpc_encode_of_decode hd, encode]
    exact ⟨hopc, (Instr.ark.inj (hark hopc)).symm⟩
  · rintro ⟨hopc, rfl⟩
    exact hark hopc

end Sys2Proof.Machine
end

section
/-! Faults and the locked core (spec/60_exceptions.md R211, R215, R216, R218). -/

namespace Sys2Proof.Machine

/-- A command on an unlocked core takes a fault and does nothing else, or it leaves ERR and CAUSE alone. -/
theorem Effect.raises_or_keeps {i : Instr} {s t : State} (h : Effect i s t) :
    (∃ c, t = raise c s) ∨ (t.ERR = s.ERR ∧ t.CAUSE = s.CAUSE) := by
  cases h with
  | keyIndex | noState | noKey | stageDone => exact .inl ⟨_, rfl⟩
  | _ => exact .inr ⟨rfl, rfl⟩

/-- A presented word that ends with ERR = 1 has raised a cause. -/
theorem exists_raise_of_executeWord {w : CmdWord} {s t : State} (he : s.ERR = false) (h : executeWord w s = .next t)
    (hE : t.ERR = true) : ∃ c, t = raise c s := by
  cases hd : decode w with
  | error e =>
    rw [executeWord_illegal he hd] at h
    cases h
    exact ⟨_, rfl⟩
  | ok i =>
    rw [executeWord_ok he hd] at h
    refine (exec_effect he h).raises_or_keeps.resolve_right fun hkeep => ?_
    simp [hE, he] at hkeep

/-- Settles O34: the only writer of ERR = 1 is `raise`, which acts on the state with the sample taken. -/
theorem faultsArePrecise : Obligations.FaultsArePrecise := by
  unfold Obligations.FaultsArePrecise
  intro s t rest w hin he h hE
  rw [step_presented hin] at h
  obtain ⟨c, rfl⟩ := exists_raise_of_executeWord (s := setInputs rest s) he h hE
  exact ⟨c, rfl⟩

/-- A locked core that takes a step is unlocked by a reset alone (R218, R219). -/
theorem step_unlocks_iff {s t : State} (he : s.ERR = true) (h : step s = .next t) :
    t.ERR = false ↔ ∃ p rest, s.inputs = p :: rest ∧ p.rst = true := by
  constructor
  · intro ht
    rcases step_cases h with rfl | ⟨p, rest, hin, rfl | ⟨hr, -⟩ | ⟨-, -, hunlocked, -⟩⟩
    · simp [he] at ht
    · simp [he] at ht
    · exact ⟨p, rest, hin, hr⟩
    · simp [he] at hunlocked
  · rintro ⟨p, rest, hin, hr⟩
    rw [step_takes hin, actOn_reset _ hr] at h
    cases h
    rfl

/-- Settles O35: a locked core drops the word before decoding it, and only `rst` clears ERR. -/
theorem lockedCoreIgnoresCommands : Obligations.LockedCoreIgnoresCommands := by
  unfold Obligations.LockedCoreIgnoresCommands
  refine ⟨fun s rest w he hin => ?ignored, fun s t he h => step_unlocks_iff he h⟩
  case ignored =>
    rw [step_presented hin]
    exact executeWord_locked (s := setInputs rest s) w he

theorem exec_next (i : Instr) (s : State) : ∃ t, exec i s = .next t := by
  cases i <;>
    simp only [exec, execNop, execLds, execKex, execArk, execSub, execShr, execMix, execStg, execEnc, execSbx, execRot,
      execGfm, runCommand_next]

theorem executeWord_next (w : CmdWord) (s : State) : ∃ t, executeWord w s = .next t := by
  cases he : s.ERR with
  | true => exact ⟨s, executeWord_locked w he⟩
  | false =>
    cases hd : decode w with
    | error e => exact ⟨_, executeWord_illegal he hd⟩
    | ok i => exact executeWord_ok he hd ▸ exec_next i s

/-- What a fault records. -/
theorem fault_regs_of_raise {o : Host.Outcome State Fault Refusal} {c : Cause} {s t : State} (h : o = .next t)
    (hraise : o = .next (raise c s)) : t.ERR = true ∧ t.CAUSE = c.code := by
  cases h.symm.trans hraise
  exact ⟨rfl, rfl⟩

/-- A command that passes every check of R211 raises nothing. -/
theorem exec_completes {i : Instr} {s t : State} (he : s.ERR = false) (hark : i ≠ .ark 3)
    (hs : readsS i = true → s.SV = true) (hk : readsKeys i = true → s.KV = true) (hg : i = .stg → s.STAGE ≠ 3)
    (h : exec i s = .next t) : t.ERR = false ∧ t.CAUSE = s.CAUSE := by
  cases exec_effect he h with
  | keyIndex => exact absurd rfl hark
  | noState hi _ hsv => simp [hs hi] at hsv
  | noKey hi _ _ hkv => simp [hk hi] at hkv
  | stageDone _ _ hstage => exact absurd hstage (hg rfl)
  | _ => exact ⟨he, rfl⟩

/-- The code that a command leaves on an unlocked core: the first check of R211 that fails names it (R215). -/
theorem exec_cause {i : Instr} {s t : State} (he : s.ERR = false) (h : exec i s = .next t) :
    if i = .ark 3 then t.ERR = true ∧ t.CAUSE = 2
    else if readsS i = true ∧ s.SV = false then t.ERR = true ∧ t.CAUSE = 3
    else if readsKeys i = true ∧ s.KV = false then t.ERR = true ∧ t.CAUSE = 4
    else if i = .stg ∧ s.STAGE = 3 then t.ERR = true ∧ t.CAUSE = 5
    else t.ERR = false ∧ t.CAUSE = s.CAUSE := by
  split_ifs with hark hnoState hnoKey hstageDone
  · exact fault_regs_of_raise h (hark ▸ exec_ark_three he)
  · exact fault_regs_of_raise h (exec_noState hnoState.1 hark he hnoState.2)
  · have hs : s.SV = true := by simpa [readsS_of_readsKeys hnoKey.1] using hnoState
    exact fault_regs_of_raise h (exec_noKey hnoKey.1 hark he hs hnoKey.2)
  · obtain ⟨rfl, hg⟩ := hstageDone
    have hs : s.SV = true := by simpa [readsS] using hnoState
    have hk : s.KV = true := by simpa [readsKeys] using hnoKey
    exact fault_regs_of_raise h (exec_stg_stageDone he hs hk hg)
  · exact exec_completes he hark (by simpa using hnoState) (by simpa using hnoKey) (not_and.1 hstageDone) h

/-- Settles O36: each condition on the word is one on the decoded command, whose checks go in the order of the codes. -/
theorem causeOfEveryCommand : Obligations.CauseOfEveryCommand := by
  unfold Obligations.CauseOfEveryCommand
  refine ⟨fun s p rest hin hr => ?reset, fun s rest w hin he hc => ?command⟩
  case reset =>
    have hreset : step (setInputs ({ p with cmdValid := false } :: rest) s) = .next (assertReset (setInputs rest s)) :=
      (step_takes rfl).trans (actOn_reset (p := { p with cmdValid := false }) _ hr)
    exact ⟨_, (step_takes hin).trans (actOn_reset _ hr), hreset, rfl, rfl, rfl, rfl, rfl, rfl, rfl⟩
  case command =>
    obtain ⟨t, h⟩ := executeWord_next w (setInputs rest s)
    refine ⟨t, (step_presented hin).trans h, fun hE => ?precise, ?cause⟩
    case precise =>
      obtain ⟨c, rfl⟩ := exists_raise_of_executeWord (s := setInputs rest s) he h hE
      rfl
    case cause =>
      intro opc idx
      have hillegal : (¬ ∃ i, decode w = .ok i) ↔ 0xC ≤ opc ∨ w.extractLsb' 16 2 ≠ 0#2 ∨ (idx ≠ 0 ∧ opc ≠ 3) :=
        not_exists_decode_iff_fields w
      by_cases hlegal : ∃ i, decode w = .ok i
      case neg =>
        rw [if_pos (hillegal.1 hlegal)]
        exact fault_regs_of_raise h (executeWord_not_decoded (s := setInputs rest s) he hlegal)
      case pos =>
        rw [if_neg (mt hillegal.2 (not_not_intro hlegal))]
        obtain ⟨i, hd⟩ := hlegal
        rw [executeWord_ok (s := setInputs rest s) he hd] at h
        have hark : i = .ark 3 ↔ opc = 3 ∧ idx = 3 := eq_ark_iff_of_decode hd 3
        have hreadsS : readsS i = true ↔ 3 ≤ opc ∧ opc ≤ 8 := readsS_iff_of_decode hd
        have hreadsKeys : readsKeys i = true ↔ opc = 3 ∨ opc = 7 ∨ opc = 8 := readsKeys_iff_of_decode hd
        have hstg : i = .stg ↔ opc = 7 := eq_stg_iff_of_decode hd
        simpa only [hark, hreadsS, hreadsKeys, hstg, and_assoc, setInputs_SV, setInputs_KV, setInputs_STAGE,
          setInputs_CAUSE, hc] using exec_cause (s := setInputs rest s) he h

end Sys2Proof.Machine
end

section
/-! The `rst` input (spec/70_reset_and_hazards.md R251). -/

namespace Sys2Proof.Machine

/-- A step on a sample with `rst` takes the sample and resets, whatever command the sample presents and whether or not the core
is locked (R219, R252). -/
theorem step_reset {s : State} {p : Input} {rest : List Input} (hin : s.inputs = p :: rest) (hr : p.rst = true) :
    step s = .next (assertReset (setInputs rest s)) :=
  (step_takes hin).trans (actOn_reset _ hr)

/-- Settles O32: the step is `assertReset` on the state with the sample taken, which writes every control register. -/
theorem resetClearsTheControlRegisters : Obligations.ResetClearsTheControlRegisters := by
  unfold Obligations.ResetClearsTheControlRegisters
  intro s p rest hin hr
  exact ⟨_, step_reset hin hr, assertReset_STAGE _, assertReset_SV _, assertReset_KV _, assertReset_TV _, assertReset_ERR _,
    assertReset_CAUSE _, assertReset_inputs _⟩

end Sys2Proof.Machine
end

section
/-! The two round trips between words and commands, and the words the assembler emits (spec/30_encoding.md R82, R83, R88, R89). -/

namespace Sys2Proof

/-! The canonical word of a command decodes to it. -/

@[simp] theorem fieldRsv_encode (i : Instr) : fieldRsv (encode i) = 0 := by
  cases i <;> exact fieldRsv_cmdWord ..

/-- Only `ARK` uses IDX. -/
theorem fieldIdx_encode (i : Instr) : fieldIdx (encode i) = 0 ∨ fieldOpc (encode i) = 0x3 := by
  cases i with
  | ark x => exact .inr (fieldOpc_cmdWord ..)
  | _ => exact .inl (fieldIdx_cmdWord ..)

/-- The fields of the canonical word select the command they were made from. -/
theorem selectOp_encode (i : Instr) :
    selectOp (fieldOpc (encode i)) (fieldIdx (encode i)) (fieldImm (encode i)) = some i := by
  cases i with
  | sbx n | rot n =>
    simp only [encode, fieldOpc_cmdWord, fieldIdx_cmdWord, fieldImm_cmdWord]
    exact congrArg (some ∘ _) BitVec.extractLsb'_append_eq_right
  | gfm a b =>
    have ha : (0#8 ++ a ++ b : Word16).extractLsb' 4 4 = a :=
      (BitVec.extractLsb'_append_eq_of_le le_rfl).trans BitVec.extractLsb'_append_eq_right
    have hb : (0#8 ++ a ++ b : Word16).extractLsb' 0 4 = b := BitVec.extractLsb'_append_eq_right
    simp only [encode, fieldOpc_cmdWord, fieldIdx_cmdWord, fieldImm_cmdWord]
    exact congrArg some (congrArg₂ Instr.gfm ha hb)
  | _ =>
    simp only [encode, fieldOpc_cmdWord, fieldIdx_cmdWord, fieldImm_cmdWord]
    rfl

@[simp] theorem decode_encode (i : Instr) : decode (encode i) = .ok i :=
  (decode_ok_iff _ i).2 ⟨selectOp_encode i, fieldRsv_encode i, fieldIdx_encode i⟩

/-- Settles O6: the fields of the canonical word select the command, with RSV = 0 and IDX = 0 outside `ARK`. -/
theorem encodeThenDecode : Obligations.EncodeThenDecode := by
  unfold Obligations.EncodeThenDecode
  exact decode_encode

/-! The bits a format uses decide. -/

/-- Every format uses OPC, IDX and RSV whole. -/
theorem fields_usedBits (i : Instr) :
    fieldOpc i.usedBits = BitVec.allOnes 4 ∧ fieldIdx i.usedBits = BitVec.allOnes 2 ∧
      fieldRsv i.usedBits = BitVec.allOnes 2 := by
  cases i <;> simp only [Instr.usedBits] <;> decide

/-- Two words that agree under a mask agree on every slice that the mask keeps whole. -/
theorem extractLsb'_eq_of_and_eq {v w m : Word16} {a n : Nat} (h : v &&& m = w &&& m)
    (hm : m.extractLsb' a n = BitVec.allOnes n) : v.extractLsb' a n = w.extractLsb' a n := by
  have hslice := congrArg (BitVec.extractLsb' a n) h
  rwa [BitVec.extractLsb'_and, BitVec.extractLsb'_and, hm, BitVec.and_allOnes, BitVec.and_allOnes] at hslice

/-- An opcode selects the same operation and operands for two immediates that agree on the bits its format uses. -/
theorem selectOp_congr {o : BitVec 4} {x : BitVec 2} {m m' : Word16} {i : Instr} (h : selectOp o x m = some i)
    (hm : m' &&& fieldImm i.usedBits = m &&& fieldImm i.usedBits) : selectOp o x m' = some i := by
  have slice : ∀ a n, (fieldImm i.usedBits).extractLsb' a n = BitVec.allOnes n → m'.extractLsb' a n = m.extractLsb' a n :=
    fun a n => extractLsb'_eq_of_and_eq hm
  unfold selectOp at h ⊢
  split at h <;> cases h <;> simp only [Instr.usedBits] at slice
  case h_2 | h_3 =>
    have hall : m' = m := by simpa only [BitVec.extractLsb'_eq_self] using slice 0 16 (by decide)
    rw [hall]
  case h_10 => rw [slice 0 4 (by decide)]
  case h_11 => rw [slice 0 8 (by decide)]
  case h_12 => rw [slice 4 4 (by decide), slice 0 4 (by decide)]
  all_goals rfl

theorem decode_of_and_usedBits_eq {w w' : CmdWord} {i : Instr} (hd : decode w = .ok i)
    (h : w' &&& i.usedBits = w &&& i.usedBits) : decode w' = .ok i := by
  obtain ⟨uopc, uidx, ursv⟩ := fields_usedBits i
  simp only [eq_iff_fields, fieldOpc_and, fieldIdx_and, fieldRsv_and, fieldImm_and, uopc, uidx, ursv,
    BitVec.and_allOnes] at h
  obtain ⟨hopc, hidx, hrsv, himm⟩ := h
  rw [decode_ok_iff] at hd ⊢
  rw [hopc, hidx, hrsv]
  exact hd.imp_left fun hsel => selectOp_congr hsel himm

/-! Encoding a decoded word. -/

/-- The low 4 or 8 bits of an immediate, with 0 above them. -/
theorem zero_append_low (m : Word16) :
    0#12 ++ m.extractLsb' 0 4 = m &&& 0x000F ∧ 0#8 ++ m.extractLsb' 0 8 = m &&& 0x00FF := by
  have hmask : ∀ j < 16, (0x000F : Word16).getLsbD j = decide (j < 4) ∧ (0x00FF : Word16).getLsbD j = decide (j < 8) := by
    decide
  constructor <;> apply BitVec.eq_of_getLsbD_eq <;> intro j hj <;>
    simp only [BitVec.getLsbD_and, hmask j hj, BitVec.getLsbD_append, BitVec.getLsbD_extractLsb'] <;>
    grind

/-- The immediate of the canonical word is the selected one with its unused bits cleared. -/
theorem fieldImm_encode_of_selectOp {o : BitVec 4} {x : BitVec 2} {m : Word16} {i : Instr}
    (h : selectOp o x m = some i) : fieldImm (encode i) = m &&& fieldImm i.usedBits := by
  unfold selectOp at h
  split at h <;> cases h <;> rw [encode, fieldImm_cmdWord, Instr.usedBits]
  case h_2 | h_3 => exact BitVec.and_allOnes.symm
  case h_10 => exact (zero_append_low m).1
  case h_11 => exact (zero_append_low m).2
  case h_12 =>
    have hjoin : m.extractLsb' 4 4 ++ m.extractLsb' 0 4 = m.extractLsb' 0 8 :=
      BitVec.extractLsb'_append_extractLsb'_eq_extractLsb' rfl
    exact (BitVec.append_assoc.trans (congrArg (0#8 ++ ·) hjoin)).trans (zero_append_low m).2
  all_goals exact BitVec.and_zero.symm

/-- The canonical word of a decoded word keeps its index: 0, or the operand of `ARK`. -/
theorem fieldIdx_encode_of_decode {w : CmdWord} {i : Instr} (hd : decode w = .ok i) :
    fieldIdx (encode i) = fieldIdx w := by
  by_cases hark : fieldOpc w = 0x3
  · have hi : i = .ark (fieldIdx w) := (Machine.eq_ark_iff_of_decode hd _).2 ⟨congrArg BitVec.toNat hark, rfl⟩
    rw [hi, encode, fieldIdx_cmdWord]
  · have henc : fieldOpc (encode i) ≠ 0x3 := fieldOpc_encode_of_decode hd ▸ hark
    obtain ⟨-, -, hidx⟩ := (decode_ok_iff w i).1 hd
    rw [(fieldIdx_encode i).resolve_right henc, hidx.resolve_right hark]

theorem encode_of_decode {w : CmdWord} {i : Instr} (hd : decode w = .ok i) : encode i = w &&& i.usedBits := by
  obtain ⟨uopc, uidx, ursv⟩ := fields_usedBits i
  obtain ⟨hsel, hrsv, -⟩ := (decode_ok_iff w i).1 hd
  rw [eq_iff_fields, fieldOpc_and, fieldIdx_and, fieldRsv_and, fieldImm_and, uopc, uidx, ursv, BitVec.and_allOnes,
    BitVec.and_allOnes, BitVec.and_allOnes]
  exact ⟨fieldOpc_encode_of_decode hd, fieldIdx_encode_of_decode hd, (fieldRsv_encode i).trans hrsv.symm,
    fieldImm_encode_of_selectOp hsel⟩

/-- Settles O7: field by field, encoding clears the immediate's unused bits, which no opcode's operands read. -/
theorem decodeThenEncodeIsCanonical : Obligations.DecodeThenEncodeIsCanonical := by
  unfold Obligations.DecodeThenEncodeIsCanonical
  exact fun w i hd => ⟨encode_of_decode hd, fun w' h => decode_of_and_usedBits_eq hd h⟩

/-- Settles O1: each word is evaluated. -/
theorem decodedWordsFromTheSpec : Obligations.DecodedWordsFromTheSpec := by
  unfold Obligations.DecodedWordsFromTheSpec
  decide

/-! The number of a canonical word. -/

theorem toNat_append_eq_add {a b : Nat} (x : BitVec a) (y : BitVec b) :
    (x ++ y).toNat = x.toNat * 2 ^ b + y.toNat := by
  rw [BitVec.toNat_append, ← Nat.shiftLeft_add_eq_or_of_lt y.isLt, Nat.shiftLeft_eq]

theorem toNat_cmdWord (o : BitVec 4) (x : BitVec 2) (m : Word16) :
    (cmdWord o x m).toNat = 0x100000 * o.toNat + 0x40000 * x.toNat + m.toNat := by
  simp only [cmdWord, toNat_append_eq_add, BitVec.toNat_ofNat]
  omega

/-- Zeros above an operand do not change its number. -/
theorem toNat_zero_append {k n : Nat} (y : BitVec n) : (0#k ++ y).toNat = y.toNat := by
  rw [toNat_append_eq_add, BitVec.toNat_ofNat, Nat.zero_mod, Nat.zero_mul, Nat.zero_add]

theorem toNat_encode_lds (m : Word16) : (encode (.lds m)).toNat = 0x100000 + m.toNat := toNat_cmdWord 0x1 0 m

theorem toNat_encode_kex (m : Word16) : (encode (.kex m)).toNat = 0x200000 + m.toNat := toNat_cmdWord 0x2 0 m

theorem toNat_encode_ark (x : BitVec 2) : (encode (.ark x)).toNat = 0x300000 + 0x40000 * x.toNat :=
  toNat_cmdWord 0x3 x 0

theorem toNat_encode_sbx (n : Nibble) : (encode (.sbx n)).toNat = 0x900000 + n.toNat :=
  (toNat_cmdWord 0x9 0 _).trans (congrArg (0x900000 + ·) (toNat_zero_append n))

theorem toNat_encode_rot (b : Byte) : (encode (.rot b)).toNat = 0xA00000 + b.toNat :=
  (toNat_cmdWord 0xA 0 _).trans (congrArg (0xA00000 + ·) (toNat_zero_append b))

theorem toNat_encode_gfm (a b : Nibble) : (encode (.gfm a b)).toNat = 0xB00000 + 16 * a.toNat + b.toNat := by
  have himm : (0#8 ++ a ++ b : Word16).toNat = 16 * a.toNat + b.toNat := by
    rw [toNat_append_eq_add, toNat_zero_append]
    omega
  rw [encode, toNat_cmdWord, himm, ← Nat.add_assoc]
  rfl

end Sys2Proof

namespace Sys2Proof.Machine

/-! The assembler. -/

/-- A command whose operands do not fit is rejected. -/
theorem assemble_eq_none {c : AsmCmd} (h : c.wellFormed = false) : assemble c = none := by
  simp only [assemble, h, Bool.false_eq_true, if_false]

/-- The number of the word emitted for a command that assembles to `i`. -/
theorem assemble_number {c : AsmCmd} {i : Instr} {k : Nat} (hc : assemble c = some i) (hk : (encode i).toNat = k) :
    (assemble c).map (fun i => (encode i).toNat) = some k := by
  rw [hc, Option.map_some, hk]

/-- An operand that fits its field keeps its number there. -/
theorem toNat_ofNat_fitting {w n : Nat} (h : n < 2 ^ w) : (BitVec.ofNat w n).toNat = n :=
  (BitVec.toNat_ofNat n w).trans (Nat.mod_eq_of_lt h)

/-- Settles O8: a fitting operand keeps its number, which the encoding multiplies to its place. -/
theorem assembledWordNumber : Obligations.AssembledWordNumber := by
  unfold Obligations.AssembledWordNumber
  refine ⟨fun n => ⟨fun h => ?lds, fun h => assemble_eq_none ?ldsWide⟩,
    fun n => ⟨fun h => ?kex, fun h => assemble_eq_none ?kexWide⟩,
    fun n => ⟨fun h => ?ark, fun h => assemble_eq_none ?arkWide⟩,
    fun n => ⟨fun h => ?sbx, fun h => assemble_eq_none ?sbxWide⟩,
    fun n => ⟨fun h => ?rot, fun h => assemble_eq_none ?rotWide⟩,
    fun a b => ⟨fun ha hb => ?gfm, fun h => assemble_eq_none ?gfmWide⟩⟩
  case lds => exact assemble_number (if_pos (decide_eq_true h)) (by rw [toNat_encode_lds, toNat_ofNat_fitting h])
  case kex => exact assemble_number (if_pos (decide_eq_true h)) (by rw [toNat_encode_kex, toNat_ofNat_fitting h])
  case ark =>
    exact assemble_number (if_pos (decide_eq_true (Nat.le_of_lt_succ h)))
      (by rw [toNat_encode_ark, toNat_ofNat_fitting h])
  case sbx => exact assemble_number (if_pos (decide_eq_true h)) (by rw [toNat_encode_sbx, toNat_ofNat_fitting h])
  case rot => exact assemble_number (if_pos (decide_eq_true h)) (by rw [toNat_encode_rot, toNat_ofNat_fitting h])
  case gfm =>
    exact assemble_number (if_pos (Bool.and_eq_true_iff.2 ⟨decide_eq_true ha, decide_eq_true hb⟩))
      (by rw [toNat_encode_gfm, toNat_ofNat_fitting ha, toNat_ofNat_fitting hb])
  case ldsWide | kexWide | sbxWide | rotWide => exact decide_eq_false (Nat.not_lt.2 h)
  case arkWide => exact decide_eq_false (Nat.not_le.2 h)
  case gfmWide =>
    exact Bool.and_eq_false_iff.2
      (h.imp (fun ha => decide_eq_false (Nat.not_lt.2 ha)) fun hb => decide_eq_false (Nat.not_lt.2 hb))

end Sys2Proof.Machine
end

section
/-! What the registers keep: a command's frame (spec/10_state.md R35), the status and round-key invariants (R24, R33), and what a
locked or idle core does (spec/60_exceptions.md R218, R226). -/

namespace Sys2Proof.Machine

variable {i : Instr} {s t : State}

/-! Every command and every step answers. -/

/-- What a command can do: nothing on a locked core, its effect on an unlocked one. -/
theorem exec_cases (h : exec i s = .next t) : (s.ERR = true ∧ t = s) ∨ (s.ERR = false ∧ Effect i s t) := by
  cases he : s.ERR with
  | true =>
    rw [exec_locked i he] at h
    cases h
    exact .inl ⟨rfl, rfl⟩
  | false => exact .inr ⟨rfl, exec_effect he h⟩

theorem actOn_next (p : Input) (s : State) : ∃ t, actOn p s = .next t := by
  cases hr : p.rst with
  | true => exact ⟨_, actOn_reset s hr⟩
  | false =>
    cases hc : p.cmdValid with
    | false => exact ⟨_, actOn_nothing s hr hc⟩
    | true => exact actOn_command s hr hc ▸ executeWord_next p.cmd s

theorem step_next (s : State) : ∃ t, step s = .next t := by
  cases hin : s.inputs with
  | nil => exact ⟨s, step_idle hin⟩
  | cons p rest => exact step_takes hin ▸ actOn_next p _

/-- Settles O46: every case of a sample and every command answers a next state. -/
theorem stepAlwaysAnswersNext : Obligations.StepAlwaysAnswersNext := by
  unfold Obligations.StepAlwaysAnswersNext
  exact ⟨step_next, exec_next⟩

/-! Single steps. -/

/-- Settles O2: the sample is taken and its word decoded. -/
theorem stepRunsTheDecodedCommand : Obligations.StepRunsTheDecodedCommand := by
  unfold Obligations.StepRunsTheDecodedCommand
  intro s rest w i hin he hd
  rw [step_presented hin]
  exact executeWord_ok (s := setInputs rest s) he hd

/-- Settles O47: neither case reaches the decoder. -/
theorem idleCoreKeepsItsState : Obligations.IdleCoreKeepsItsState := by
  unfold Obligations.IdleCoreKeepsItsState
  exact ⟨fun s => step_idle, fun s p rest hin hr hc => (step_takes hin).trans (actOn_nothing _ hr hc)⟩

/-- On a locked core a sample without `rst` does nothing, whether or not it presents a command. -/
theorem actOn_locked {p : Input} (hr : p.rst = false) (he : s.ERR = true) : actOn p s = .next s := by
  cases hc : p.cmdValid with
  | false => exact actOn_nothing s hr hc
  | true => exact (actOn_command s hr hc).trans (executeWord_locked _ he)

/-- Settles O55: the step checks ERR before decoding, and every command checks it again. -/
theorem lockedCoreKeepsItsState : Obligations.LockedCoreKeepsItsState := by
  unfold Obligations.LockedCoreKeepsItsState
  exact ⟨fun s p rest he hin hr => (step_takes hin).trans (actOn_locked (s := setInputs rest s) hr he),
    fun s i he => exec_locked i he⟩

/-- Settles O33: a reset leaves the same control registers whatever it finds, and hides the data registers. -/
theorem twoResetsEqualOne : Obligations.TwoResetsEqualOne := by
  unfold Obligations.TwoResetsEqualOne
  intro s p q rest hin hp hq
  exact ⟨_, _, step_reset hin hp, step_reset rfl hq, rfl⟩

/-- Settles O53: a guarded port shows its register or nothing, as its flag says. -/
theorem portsShowTheRegisters : Obligations.PortsShowTheRegisters := by
  unfold Obligations.PortsShowTheRegisters
  intro s
  have shown {w : Nat} {f : Bool} (v : BitVec w) (h : f = true) : guarded f v = some v := if_pos h
  have hidden {w : Nat} {f : Bool} (v : BitVec w) (h : f = false) : guarded f v = none := if_neg (Bool.eq_false_iff.1 h)
  exact ⟨shown _, hidden _, fun h => ⟨shown _ h, shown _ h, shown _ h⟩, fun h => ⟨hidden _ h, hidden _ h, hidden _ h⟩,
    shown _, hidden _, rfl, rfl, rfl, rfl, rfl, rfl⟩

/-! The frame of an effect, register by register. -/

theorem Effect.S_eq (h : Effect i s t) (hw : writesS i = false) : t.S = s.S := by
  cases h with
  | lds | ark | sub | shr | mix | stg | enc => exact absurd hw Bool.noConfusion
  | _ => rfl

theorem Effect.keys_eq (h : Effect i s t) (hw : writesKeys i = false) :
    t.RK0 = s.RK0 ∧ t.RK1 = s.RK1 ∧ t.RK2 = s.RK2 ∧ t.KV = s.KV := by
  cases h with
  | kex => exact absurd hw Bool.noConfusion
  | _ => exact ⟨rfl, rfl, rfl, rfl⟩

theorem Effect.T_eq (h : Effect i s t) (hw : writesT i = false) : t.T = s.T ∧ t.TV = s.TV := by
  cases h with
  | sbx | rot | gfm => exact absurd hw Bool.noConfusion
  | _ => exact ⟨rfl, rfl⟩

theorem Effect.STAGE_eq (h : Effect i s t) (hw : writesStage i = false) : t.STAGE = s.STAGE := by
  cases h with
  | lds | stg | enc => exact absurd hw Bool.noConfusion
  | _ => rfl

theorem Effect.SV_eq (h : Effect i s t) (hw : writesSV i = false) : t.SV = s.SV := by
  cases h with
  | lds => exact absurd hw Bool.noConfusion
  | _ => rfl

/-- The host's moves and the count of resets are not a command's. -/
theorem Effect.host_eq (h : Effect i s t) : t.inputs = s.inputs ∧ t.freeCount = s.freeCount := by
  cases h <;> exact ⟨rfl, rfl⟩

/-- Settles O41: nothing changes on a locked core, and each effect writes the registers of its row. -/
theorem operationsWriteOnlyTheirRegisters : Obligations.OperationsWriteOnlyTheirRegisters := by
  unfold Obligations.OperationsWriteOnlyTheirRegisters
  intro i s t h
  rcases exec_cases h with ⟨-, rfl⟩ | ⟨he, heff⟩
  · simp
  · obtain ⟨hinputs, hcount⟩ := heff.host_eq
    refine ⟨heff.S_eq, heff.keys_eq, heff.T_eq, heff.STAGE_eq, heff.SV_eq, hinputs, hcount, ?_⟩
    rcases heff.raises_or_keeps with ⟨c, rfl⟩ | hkeeps
    · exact .inr ⟨he, rfl, rfl⟩
    · exact .inl hkeeps

/-! The valid flags and ERR only rise. -/

/-- The flags of `s` that are 1 are 1 in `t`. -/
def FlagsKept (s t : State) : Prop :=
  (s.SV = true → t.SV = true) ∧ (s.KV = true → t.KV = true) ∧ (s.TV = true → t.TV = true) ∧
    (s.ERR = true → t.ERR = true)

theorem FlagsKept.refl (s : State) : FlagsKept s s := ⟨id, id, id, id⟩

theorem flagsKept_raise (c : Cause) (s : State) : FlagsKept s (raise c s) := ⟨id, id, id, fun _ => rfl⟩

theorem Effect.flagsKept (h : Effect i s t) : FlagsKept s t := by
  cases h with
  | lds => exact ⟨fun _ => rfl, id, id, id⟩
  | kex => exact ⟨id, fun _ => rfl, id, id⟩
  | sbx | rot | gfm => exact ⟨id, id, fun _ => rfl, id⟩
  | keyIndex | noState | noKey | stageDone => exact flagsKept_raise _ _
  | _ => exact .refl _

/-- Settles O40: no command clears a flag, and the sample is no reset. -/
theorem flagsStayUntilReset : Obligations.FlagsStayUntilReset := by
  unfold Obligations.FlagsStayUntilReset
  intro s t p rest hin hp h
  change FlagsKept s t
  rcases step_cases h with rfl | ⟨q, l, hq, rfl | ⟨hr, -⟩ | ⟨-, -, he, ⟨e, -, rfl⟩ | ⟨i, -, hi⟩⟩⟩
  · exact .refl _
  · exact .refl s
  · cases hin.symm.trans hq
    exact absurd (hp.symm.trans hr) Bool.false_ne_true
  · exact flagsKept_raise .illegalEncoding s
  · exact (exec_effect (s := setInputs l s) he hi).flagsKept

/-! The round keys. -/

/-- A word that decodes to `KEX` is in KEX's row. -/
theorem clear_imm_of_decode_kex {w : CmdWord} {k : Word16} (hd : decode w = .ok (.kex k)) :
    w &&& 0xFF0000 = 0x200000 := by
  have hw : w = encode (.kex k) := ((encode_of_decode hd).trans BitVec.and_allOnes).symm
  rw [hw]
  exact Laws.TableRow.mask_cmdWord 0x2 k

/-- Settles O42: of all that a step does, only reset and `KEX` write keys, and `KEX` is decoded from its own row alone. -/
theorem onlyKexOrResetChangesKeys : Obligations.OnlyKexOrResetChangesKeys := by
  unfold Obligations.OnlyKexOrResetChangesKeys
  intro s t h hne
  have hchanged : ¬ (t.RK0 = s.RK0 ∧ t.RK1 = s.RK1 ∧ t.RK2 = s.RK2 ∧ t.KV = s.KV) := by tauto
  rcases step_cases h with rfl | ⟨p, rest, hin, rfl | ⟨hr, -⟩ | ⟨-, hc, he, ⟨e, -, rfl⟩ | ⟨i, hd, hi⟩⟩⟩
  · exact absurd ⟨rfl, rfl, rfl, rfl⟩ hchanged
  · exact absurd ⟨rfl, rfl, rfl, rfl⟩ hchanged
  · exact ⟨p, rest, hin, .inl hr⟩
  · exact absurd ⟨rfl, rfl, rfl, rfl⟩ hchanged
  · refine ⟨p, rest, hin, .inr ⟨hc, he, ?_⟩⟩
    cases exec_effect (s := setInputs rest s) he hi with
    | kex k => exact clear_imm_of_decode_kex hd
    | _ => exact absurd ⟨rfl, rfl, rfl, rfl⟩ hchanged

theorem keyInv_of_no_keys (hk : s.KV = false) : KeyInv s := fun hkv => absurd (hk.symm.trans hkv) Bool.false_ne_true

theorem Effect.keyInv (h : Effect i s t) (hs : KeyInv s) : KeyInv t := by
  cases h with
  | kex k =>
    intro _
    simp only [writeKeys_RK0, writeKeys_RK1, writeKeys_RK2, keyExpand_k0, and_self]
  | _ => exact hs

/-- Settles O39: `KEX` writes a whole expansion, reset clears KV, and nothing else touches the keys. -/
theorem stepKeepsRoundKeysExpanded : Obligations.StepKeepsRoundKeysExpanded := by
  unfold Obligations.StepKeepsRoundKeysExpanded
  intro s t hs h
  exact step_preserves (P := KeyInv) (fun _ _ hs => hs) (fun _ => keyInv_of_no_keys rfl) (fun _ hs _ => hs)
    (fun i s t hs he h => (exec_effect he h).keyInv hs) hs h

/-! The status registers. -/

/-- The status registers of an unlocked core: CAUSE = 0 excludes every diagnosis. -/
theorem statusInv_of_unlocked (he : s.ERR = false) (hc : s.CAUSE = 0) (hg : StageInv s) : StatusInv s := by
  refine ⟨⟨by simp [he, hc], by simp [hc]⟩, hg, ?_⟩
  simp [DiagnosisInv, hc]

theorem statusInv_assertReset (s : State) : StatusInv (assertReset s) :=
  statusInv_of_unlocked rfl rfl (absurd rfl)

/-- Settles O37: reset clears ERR, CAUSE, STAGE and KV, which leaves the invariants no case. -/
theorem invariantsHoldAtReset : Obligations.InvariantsHoldAtReset := by
  unfold Obligations.InvariantsHoldAtReset
  exact ⟨statusInv_of_unlocked rfl rfl (absurd rfl), keyInv_of_no_keys rfl,
    fun s => ⟨statusInv_assertReset s, keyInv_of_no_keys rfl⟩⟩

/-- A fault keeps the status consistent when the registers show what its cause says. -/
theorem statusInv_raise {c : Cause} (hg : StageInv s) (hstate : c = .noState → s.SV = false)
    (hkey : c = .noKey → s.SV = true ∧ s.KV = false)
    (hstage : c = .stageDone → s.STAGE = 3 ∧ s.SV = true ∧ s.KV = true) : StatusInv (raise c s) := by
  have hcode : c.code ≠ 0 ∧ c.code.toNat ≤ 5 ∧ (c.code = 3 → c = .noState) ∧ (c.code = 4 → c = .noKey) ∧
      (c.code = 5 → c = .stageDone) := by cases c <;> decide
  obtain ⟨hne, hle, h3, h4, h5⟩ := hcode
  exact ⟨⟨⟨fun h => absurd h.symm Bool.false_ne_true, fun h => absurd h hne⟩, hle⟩, hg,
    fun h => hstate (h3 h), fun h => hkey (h4 h), fun h => hstage (h5 h)⟩

/-- STAGE leaves 0 only by commands that have checked both flags. -/
theorem Effect.stageInv (h : Effect i s t) (hg : StageInv s) : StageInv t := by
  cases h with
  | lds => exact absurd rfl
  | kex => exact fun hne => ⟨(hg hne).1, rfl⟩
  | stg _ hs hk | enc hs hk => exact fun _ => ⟨hs, hk⟩
  | _ => exact hg

theorem Effect.statusInv (h : Effect i s t) (he : s.ERR = false) (hs : StatusInv s) : StatusInv t := by
  obtain ⟨⟨herr, -⟩, hg, -⟩ := hs
  have hgt : StageInv t := h.stageInv hg
  cases h with
  | keyIndex => exact statusInv_raise hg nofun nofun nofun
  | noState _ _ hsv => exact statusInv_raise hg (fun _ => hsv) nofun nofun
  | noKey _ _ hsv hkv => exact statusInv_raise hg nofun (fun _ => ⟨hsv, hkv⟩) nofun
  | stageDone hsv hkv hstage => exact statusInv_raise hg nofun nofun fun _ => ⟨hstage, hsv, hkv⟩
  | _ => exact statusInv_of_unlocked he (herr.1 he) hgt

/-- Settles O38: a command that completes leaves CAUSE = 0, and one that faults leaves the registers that its check read. -/
theorem stepKeepsStatusConsistent : Obligations.StepKeepsStatusConsistent := by
  unfold Obligations.StepKeepsStatusConsistent
  intro s t hs h
  refine step_preserves (P := StatusInv) (fun _ _ hs => hs) statusInv_assertReset ?illegal ?command hs h
  case illegal => exact fun s ⟨_, hg, _⟩ _ => statusInv_raise hg nofun nofun nofun
  case command => exact fun i s t hs he h => (exec_effect he h).statusInv he hs

end Sys2Proof.Machine
end

section
/-! What a command does not read: T and TV (spec/10_state.md R25), the host's pending moves, and data registers whose valid flag is 0
(spec/93_implementation_defined.md U1, U2). An effect of a command on one state is carried over to another state that agrees on what
the command reads. -/

namespace Sys2Proof.Machine

variable {i : Instr} {s t s' t' : State}

/-- The converse of `exec_effect`: each effect is what the command does. -/
theorem exec_of_effect (he : s.ERR = false) (h : Effect i s t) : exec i s = .next t := by
  cases h with
  | nop => exact exec_nop s
  | lds p => exact exec_lds p he
  | kex k => exact exec_kex k he
  | ark hi hs hk => exact exec_ark hi he hs hk
  | sub hs => exact exec_sub he hs
  | shr hs => exact exec_shr he hs
  | mix hs => exact exec_mix he hs
  | stg hi hs hk => exact exec_stg hi he hs hk
  | enc hs hk => exact exec_enc he hs hk
  | sbx n => exact exec_sbx n he
  | rot b => exact exec_rot b he
  | gfm a b => exact exec_gfm a b he
  | keyIndex => exact exec_ark_three he
  | noState hi h3 hs => exact exec_noState hi h3 he hs
  | noKey hi h3 hs hk => exact exec_noKey hi h3 he hs hk
  | stageDone hs hk hg => exact exec_stg_stageDone he hs hk hg

/-! T, TV and the pending moves. -/

/-- The state with other contents in the registers that no command reads, and with other pending moves. -/
def withUnread (v : Byte) (f : Bool) (l : List Input) (s : State) : State := { s with T := v, TV := f, inputs := l }

/-- A command that does not write T does the same whatever the unread fields hold, and leaves them. -/
theorem Effect.carries_unread (h : Effect i s t) (hw : writesT i = false) (v : Byte) (f : Bool) (l : List Input) :
    Effect i (withUnread v f l s) (withUnread v f l t) := by
  cases h with
  | nop => exact .nop
  | lds p => exact .lds p
  | kex k => exact .kex k
  | ark hi hs hk => exact .ark (s := withUnread v f l s) hi hs hk
  | sub hs => exact .sub (s := withUnread v f l s) hs
  | shr hs => exact .shr (s := withUnread v f l s) hs
  | mix hs => exact .mix (s := withUnread v f l s) hs
  | stg hi hs hk => exact .stg (s := withUnread v f l s) hi hs hk
  | enc hs hk => exact .enc (s := withUnread v f l s) hs hk
  | sbx | rot | gfm => exact absurd hw Bool.noConfusion
  | keyIndex => exact .keyIndex
  | noState hi h3 hs => exact .noState (s := withUnread v f l s) hi h3 hs
  | noKey hi h3 hs hk => exact .noKey (s := withUnread v f l s) hi h3 hs hk
  | stageDone hs hk hg => exact .stageDone (s := withUnread v f l s) hs hk hg

/-- No operation that reads S writes T. -/
theorem writesT_of_readsS (h : readsS i = true) : writesT i = false := by
  cases i with
  | ark | sub | shr | mix | stg | enc => rfl
  | _ => exact absurd h Bool.noConfusion

/-- A command that writes T does the same too, and leaves nothing of what T and TV held. -/
theorem Effect.overwrites_result (h : Effect i s t) (hw : writesT i = true) (v : Byte) (f : Bool) (l : List Input) :
    Effect i (withUnread v f l s) (setInputs l t) := by
  cases h with
  | sbx n => exact .sbx (s := withUnread v f l s) n
  | rot b => exact .rot (s := withUnread v f l s) b
  | gfm a b => exact .gfm (s := withUnread v f l s) a b
  | noState hi => exact absurd (hw.symm.trans (writesT_of_readsS hi)) Bool.noConfusion
  | noKey hi => exact absurd (hw.symm.trans (writesT_of_readsS (readsS_of_readsKeys hi))) Bool.noConfusion
  | _ => exact absurd hw Bool.noConfusion

/-- The pending moves alone. -/
theorem Effect.setInputs (h : Effect i s t) (l : List Input) : Effect i (setInputs l s) (setInputs l t) := by
  cases hw : writesT i with
  | true => exact h.overwrites_result hw s.T s.TV l
  | false =>
    obtain ⟨hT, hTV⟩ := h.T_eq hw
    have ht : withUnread s.T s.TV l t = Machine.setInputs l t := by
      rw [← hT, ← hTV]
      rfl
    exact ht ▸ h.carries_unread hw s.T s.TV l

/-- Settles O43: a command that writes T overwrites both registers, and any other carries them through. -/
theorem resultRegisterIsNeverRead : Obligations.ResultRegisterIsNeverRead := by
  unfold Obligations.ResultRegisterIsNeverRead
  intro i s v f
  obtain ⟨t, h⟩ := exec_next i s
  rcases exec_cases h with ⟨he, rfl⟩ | ⟨he, heff⟩
  · exact ⟨t, { t with T := v, TV := f }, h, exec_locked i he, rfl, .inr ⟨rfl, rfl, rfl, rfl⟩⟩
  have hrun : ∀ {u}, Effect i (withUnread v f t.inputs s) u → exec i { s with T := v, TV := f } = .next u := by
    rw [heff.host_eq.1]
    exact exec_of_effect (s := withUnread v f s.inputs s) he
  cases hw : writesT i with
  | true => exact ⟨t, t, h, hrun (heff.overwrites_result hw v f t.inputs), rfl, .inl ⟨rfl, rfl⟩⟩
  | false =>
    obtain ⟨hT, hTV⟩ := heff.T_eq hw
    exact ⟨t, _, h, hrun (heff.carries_unread hw v f t.inputs), rfl, .inr ⟨hT, rfl, hTV, rfl⟩⟩

/-! What two indistinguishable states share. -/

namespace Indistinguishable

variable (h : Indistinguishable s t)
include h

theorem SV_eq : s.SV = t.SV := congrArg Ports.sv h.1
theorem KV_eq : s.KV = t.KV := congrArg Ports.kv h.1
theorem ERR_eq : s.ERR = t.ERR := congrArg Ports.err h.1
theorem STAGE_eq : s.STAGE = t.STAGE := congrArg Ports.stageOut h.1
theorem inputs_eq : s.inputs = t.inputs := h.2

end Indistinguishable

/-- Two guarded ports that show the same, with their flag 1, have the same register behind them. -/
theorem eq_of_guarded_eq {w : Nat} {f g : Bool} {a b : BitVec w} (h : guarded f a = guarded g b) (hf : f = true)
    (hg : g = true) : a = b := by
  subst hf hg
  exact Option.some.inj h

theorem Indistinguishable.S_eq (h : Indistinguishable s t) (hs : s.SV = true) : s.S = t.S :=
  eq_of_guarded_eq (congrArg Ports.sOut h.1) hs (h.SV_eq ▸ hs)

theorem Indistinguishable.rk_eq (h : Indistinguishable s t) (hk : s.KV = true) (j : Fin 3) : s.rk j = t.rk j := by
  have hk' : t.KV = true := h.KV_eq ▸ hk
  match j with
  | 0 => exact eq_of_guarded_eq (congrArg Ports.rk0Out h.1) hk hk'
  | 1 => exact eq_of_guarded_eq (congrArg Ports.rk1Out h.1) hk hk'
  | 2 => exact eq_of_guarded_eq (congrArg Ports.rk2Out h.1) hk hk'

/-! What a register operation leaves on the ports is a function of the ports before it. -/

theorem ports_writeS (v : Word16) (s : State) :
    (writeS v s).ports = { s.ports with sOut := guarded s.ports.sv v } := rfl

theorem ports_loadBlock (v : Word16) (s : State) :
    (loadBlock v s).ports = { s.ports with sOut := some v, sv := true, stageOut := 0 } := rfl

theorem ports_writeStage (v : Word16) (n : BitVec 2) (s : State) :
    (writeStage v n s).ports = { s.ports with sOut := guarded s.ports.sv v, stageOut := n } := rfl

theorem ports_writeKeys (k0 k1 k2 : Word16) (s : State) :
    (writeKeys k0 k1 k2 s).ports = { s.ports with rk0Out := some k0, rk1Out := some k1, rk2Out := some k2, kv := true } :=
  rfl

theorem ports_writeT (v : Byte) (s : State) : (writeT v s).ports = { s.ports with tOut := some v, tv := true } := rfl

theorem ports_raise (c : Cause) (s : State) : (raise c s).ports = { s.ports with err := true, cause := c.code } := rfl

namespace Indistinguishable

variable (h : Indistinguishable s t)
include h

theorem writeS (v : Word16) : Indistinguishable (writeS v s) (writeS v t) :=
  ⟨by rw [ports_writeS, ports_writeS, h.1], h.2⟩

theorem loadBlock (v : Word16) : Indistinguishable (loadBlock v s) (loadBlock v t) :=
  ⟨by rw [ports_loadBlock, ports_loadBlock, h.1], h.2⟩

theorem writeStage (v : Word16) (n : BitVec 2) : Indistinguishable (writeStage v n s) (writeStage v n t) :=
  ⟨by rw [ports_writeStage, ports_writeStage, h.1], h.2⟩

theorem writeKeys (k0 k1 k2 : Word16) : Indistinguishable (writeKeys k0 k1 k2 s) (writeKeys k0 k1 k2 t) :=
  ⟨by rw [ports_writeKeys, ports_writeKeys, h.1], h.2⟩

theorem writeT (v : Byte) : Indistinguishable (writeT v s) (writeT v t) :=
  ⟨by rw [ports_writeT, ports_writeT, h.1], h.2⟩

theorem raise (c : Cause) : Indistinguishable (raise c s) (raise c t) :=
  ⟨by rw [ports_raise, ports_raise, h.1], h.2⟩

theorem setInputs (l : List Input) : Indistinguishable (setInputs l s) (setInputs l t) := ⟨h.1, rfl⟩

end Indistinguishable

/-- After a reset only the pending moves of the state before it count. -/
theorem assertReset_indistinguishable (h : s.inputs = t.inputs) : Indistinguishable (assertReset s) (assertReset t) :=
  ⟨rfl, h⟩

/-! The simulation: commands, samples, steps and runs. -/

/-- An effect reads a data register only under its valid flag, so it carries over to an indistinguishable state. -/
theorem Effect.simulate (heff : Effect i s s') (h : Indistinguishable s t) :
    ∃ t', Effect i t t' ∧ Indistinguishable s' t' := by
  cases heff with
  | nop => exact ⟨t, .nop, h⟩
  | lds p => exact ⟨_, .lds p, h.loadBlock p⟩
  | kex k => exact ⟨_, .kex k, h.writeKeys _ _ _⟩
  | ark hi hs hk =>
    rw [h.S_eq hs, h.rk_eq hk]
    exact ⟨_, .ark hi (h.SV_eq ▸ hs) (h.KV_eq ▸ hk), h.writeS _⟩
  | sub hs =>
    rw [h.S_eq hs]
    exact ⟨_, .sub (h.SV_eq ▸ hs), h.writeS _⟩
  | shr hs =>
    rw [h.S_eq hs]
    exact ⟨_, .shr (h.SV_eq ▸ hs), h.writeS _⟩
  | mix hs =>
    rw [h.S_eq hs]
    exact ⟨_, .mix (h.SV_eq ▸ hs), h.writeS _⟩
  | stg hi hs hk =>
    rw [h.S_eq hs, ← rk_zero s, ← rk_one s, ← rk_two s, h.rk_eq hk, h.rk_eq hk, h.rk_eq hk, h.STAGE_eq]
    exact ⟨_, .stg (h.STAGE_eq ▸ hi) (h.SV_eq ▸ hs) (h.KV_eq ▸ hk), h.writeStage _ _⟩
  | enc hs hk =>
    rw [h.S_eq hs, ← rk_zero s, ← rk_one s, ← rk_two s, h.rk_eq hk, h.rk_eq hk, h.rk_eq hk]
    exact ⟨_, .enc (h.SV_eq ▸ hs) (h.KV_eq ▸ hk), h.writeStage _ _⟩
  | sbx n => exact ⟨_, .sbx n, h.writeT _⟩
  | rot b => exact ⟨_, .rot b, h.writeT _⟩
  | gfm a b => exact ⟨_, .gfm a b, h.writeT _⟩
  | keyIndex => exact ⟨_, .keyIndex, h.raise _⟩
  | noState hi h3 hs => exact ⟨_, .noState hi h3 (h.SV_eq ▸ hs), h.raise _⟩
  | noKey hi h3 hs hk => exact ⟨_, .noKey hi h3 (h.SV_eq ▸ hs) (h.KV_eq ▸ hk), h.raise _⟩
  | stageDone hs hk hg => exact ⟨_, .stageDone (h.SV_eq ▸ hs) (h.KV_eq ▸ hk) (h.STAGE_eq ▸ hg), h.raise _⟩

/-- Two outcomes the host cannot tell apart: both next states. -/
def IndistinguishableNext (o p : Host.Outcome State Fault Refusal) : Prop :=
  ∃ s' t', o = .next s' ∧ p = .next t' ∧ Indistinguishable s' t'

theorem exec_indistinguishable (i : Instr) (h : Indistinguishable s t) : IndistinguishableNext (exec i s) (exec i t) := by
  obtain ⟨s', hs⟩ := exec_next i s
  rcases exec_cases hs with ⟨he, rfl⟩ | ⟨he, heff⟩
  · exact ⟨s', t, hs, exec_locked i (h.ERR_eq ▸ he), h⟩
  · obtain ⟨t', heff', h'⟩ := heff.simulate h
    exact ⟨s', t', hs, exec_of_effect (h.ERR_eq ▸ he) heff', h'⟩

theorem executeWord_indistinguishable (w : CmdWord) (h : Indistinguishable s t) :
    IndistinguishableNext (executeWord w s) (executeWord w t) := by
  cases he : s.ERR with
  | true => exact ⟨s, t, executeWord_locked w he, executeWord_locked w (h.ERR_eq ▸ he), h⟩
  | false =>
    have he' : t.ERR = false := h.ERR_eq ▸ he
    cases hd : decode w with
    | error e => exact ⟨_, _, executeWord_illegal he hd, executeWord_illegal he' hd, h.raise _⟩
    | ok i =>
      rw [executeWord_ok he hd, executeWord_ok he' hd]
      exact exec_indistinguishable i h

theorem actOn_indistinguishable (p : Input) (h : Indistinguishable s t) :
    IndistinguishableNext (actOn p s) (actOn p t) := by
  cases hr : p.rst with
  | true => exact ⟨_, _, actOn_reset s hr, actOn_reset t hr, assertReset_indistinguishable h.inputs_eq⟩
  | false =>
    cases hc : p.cmdValid with
    | false => exact ⟨s, t, actOn_nothing s hr hc, actOn_nothing t hr hc, h⟩
    | true =>
      rw [actOn_command s hr hc, actOn_command t hr hc]
      exact executeWord_indistinguishable p.cmd h

theorem step_indistinguishable (h : Indistinguishable s t) : IndistinguishableNext (step s) (step t) := by
  cases hin : s.inputs with
  | nil => exact ⟨s, t, step_idle hin, step_idle (h.inputs_eq ▸ hin), h⟩
  | cons p rest =>
    rw [step_takes hin, step_takes (h.inputs_eq ▸ hin)]
    exact actOn_indistinguishable p (h.setInputs rest)

/-- Settles O44: both states take the same sample, and what it does reads data under valid flags alone. -/
theorem stepHidesUnspecifiedData : Obligations.StepHidesUnspecifiedData := by
  unfold Obligations.StepHidesUnspecifiedData
  exact fun s t h => step_indistinguishable h

/-- A run that has taken one step goes on from the state it answered. -/
theorem run_succ {M : Host.Core} {s t : M.State} (n : Nat) (h : M.step s = .next t) : M.run (n + 1) s = M.run n t := by
  simp only [Host.Core.run, h]

theorem run_indistinguishable (n : Nat) {s t : State} (h : Indistinguishable s t) :
    IndistinguishableNext (core.run n s) (core.run n t) := by
  induction n generalizing s t with
  | zero => exact ⟨s, t, rfl, rfl, h⟩
  | succ n ih =>
    obtain ⟨s', t', hs, ht, h'⟩ := step_indistinguishable h
    rw [run_succ (M := core) n hs, run_succ (M := core) n ht]
    exact ih h'

/-- Settles O45: after a reset, or from power-on, the ports do not depend on the data registers, and no step tells them apart. -/
theorem runsAfterResetShowTheSamePorts : Obligations.RunsAfterResetShowTheSamePorts := by
  unfold Obligations.RunsAfterResetShowTheSamePorts
  have powerOn : ∀ s : State, Indistinguishable (setInputs s.inputs State.reset) (assertReset s) := fun s => ⟨rfl, rfl⟩
  exact ⟨fun n s t h => run_indistinguishable n (assertReset_indistinguishable h),
    fun n s => run_indistinguishable n (powerOn s)⟩

end Sys2Proof.Machine
end

section
/-! Laws of the primitives and of the pipeline that the spec derives (spec/40_primitives.md R112 to R114, spec/41_key_schedule.md R146,
R150, spec/42_round_pipeline.md R163, R166). -/

namespace Sys2Proof.Machine

/-- Settles O54: the two procedures of R112 agree, and the product does not depend on the order of its operands. -/
theorem gfmReducesByThePolynomial : Obligations.GfmReducesByThePolynomial := by
  unfold Obligations.GfmReducesByThePolynomial
  intro s a b he
  rw [exec_gfm_setWidth a b he, exec_gfm_setWidth b a he, gfMul_comm b a, gfMul_eq_gfMulByReduction]
  exact ⟨rfl, rfl⟩

/-! The check equations of the key schedule: the second byte of a round key is the xor of its first with the byte before it. -/

theorem keyExpand_k1_check (k : Word16) : byte0 (keyExpand k).k1 ^^^ byte1 (keyExpand k).k1 = byte1 (keyExpand k).k0 := by
  simp only [keyExpand, byte0_pack16, byte1_pack16]
  exact (BitVec.xor_comm _ _).trans (xor_cancel_right _ _)

theorem keyExpand_k2_check (k : Word16) : byte0 (keyExpand k).k2 ^^^ byte1 (keyExpand k).k2 = byte1 (keyExpand k).k1 := by
  simp only [keyExpand, byte0_pack16, byte1_pack16]
  exact (BitVec.xor_comm _ _).trans (xor_cancel_right _ _)

/-- Settles O23: both equations cancel a byte, and the first round key is the key. -/
theorem keyExpandCheckEquations : Obligations.KeyExpandCheckEquations := by
  unfold Obligations.KeyExpandCheckEquations
  refine ⟨fun k => ⟨keyExpand_k1_check k, keyExpand_k2_check k⟩, fun k k' hne => ?_⟩
  rwa [keyExpand_k0, keyExpand_k0]

/-! MixCol is linear, since multiplication is. -/

theorem mixTop_xor (a a' b b' : Nibble) : mixTop (a ^^^ a') (b ^^^ b') = mixTop a b ^^^ mixTop a' b' := by
  simp only [mixTop, gfMul_xor]
  ac_rfl

theorem mixBottom_xor (a a' b b' : Nibble) : mixBottom (a ^^^ a') (b ^^^ b') = mixBottom a b ^^^ mixBottom a' b' := by
  simp only [mixBottom, gfMul_xor]
  ac_rfl

theorem mixCol_xor (d e : Word16) : mixCol (d ^^^ e) = mixCol d ^^^ mixCol e := by
  apply word_eq_of_nibs <;> simp [nib_xor, mixTop_xor, mixBottom_xor]

/-- The bits of Mul4 (R113). -/
theorem getLsbD_mul4 : ∀ n : Nibble,
    (mul4 n).getLsbD 3 = n.getLsbD 1 ∧ (mul4 n).getLsbD 2 = (n.getLsbD 0 ^^ n.getLsbD 3) ∧
      (mul4 n).getLsbD 1 = (n.getLsbD 2 ^^ n.getLsbD 3) ∧ (mul4 n).getLsbD 0 = n.getLsbD 2 := by decide

/-- Settles O28: Mul4 on the sixteen nibbles, linearity cell by cell, and the square of the mix matrix. -/
theorem mixColIsLinearAndSquaresToTwo : Obligations.MixColIsLinearAndSquaresToTwo := by
  unfold Obligations.MixColIsLinearAndSquaresToTwo
  exact ⟨fun d j => getLsbD_mul4 (nib d j), mixCol_xor, mixCol_zero, nib_mixCol_mixCol⟩

/-- Settles O29: ShiftRow moves whole nibbles, and SubNib treats them all alike. -/
theorem subNibShiftRowCommute : Obligations.SubNibShiftRowCommute := by
  unfold Obligations.SubNibShiftRowCommute
  intro d
  apply word_eq_of_nibs <;> simp

/-! The pipeline loses nothing. -/

theorem subNib_bijective : Function.Bijective subNib := by
  refine Finite.injective_iff_bijective.1 fun d e h => ?_
  have hnib : ∀ j, nib d j = nib e j := fun j =>
    sBoxLookup_injective _ _ (by rw [← nib_subNib, h, nib_subNib])
  exact word_eq_of_nibs (hnib 0) (hnib 1) (hnib 2) (hnib 3)

theorem shiftRow_bijective : Function.Bijective shiftRow :=
  Function.Involutive.bijective shiftRow_shiftRow

theorem gfMul_two_injective : ∀ a b : Nibble, gfMul 2 a = gfMul 2 b → a = b := by decide

/-- MixCol twice is multiplication by 2, which loses nothing. -/
theorem mixCol_bijective : Function.Bijective mixCol := by
  refine Finite.injective_iff_bijective.1 fun d e h => ?_
  have hnib : ∀ j, nib d j = nib e j := fun j =>
    gfMul_two_injective _ _ (by rw [← nib_mixCol_mixCol, h, nib_mixCol_mixCol])
  exact word_eq_of_nibs (hnib 0) (hnib 1) (hnib 2) (hnib 3)

theorem addKey_bijective (k : Word16) : Function.Bijective fun d => addKey d k :=
  Function.Involutive.bijective fun d => addKey_addKey d k

theorem stage_bijective (i : Fin 3) (k0 k1 k2 : Word16) : Function.Bijective fun d => stage i d k0 k1 k2 := by
  match i with
  | 0 => exact addKey_bijective k0
  | 1 => exact (addKey_bijective k1).comp (mixCol_bijective.comp (shiftRow_bijective.comp subNib_bijective))
  | 2 => exact (addKey_bijective k2).comp (shiftRow_bijective.comp subNib_bijective)

/-- Settles O30: each stage is a composition of bijections, and the block of the three stages. -/
theorem encryptBlockBijective : Obligations.EncryptBlockBijective := by
  unfold Obligations.EncryptBlockBijective
  exact ⟨subNib_bijective, shiftRow_bijective, mixCol_bijective, fun k0 k1 k2 =>
    (stage_bijective 2 k0 k1 k2).comp ((stage_bijective 1 k0 k1 k2).comp (stage_bijective 0 k0 k1 k2))⟩

end Sys2Proof.Machine
end

section
/-! Command lists and whole blocks (spec/30_encoding.md R90, spec/42_round_pipeline.md R165, R173, R174,
spec/70_reset_and_hazards.md R253, R256). -/

namespace Sys2Proof.Machine

variable {i : Instr} {is : List Instr} {s t : State}

/-! Command lists. -/

/-- The first command of a list, then the others from where it led. -/
theorem execAll_then {o : Host.Outcome State Fault Refusal} (h : exec i s = .next t) (hrest : execAll is t = o) :
    execAll (i :: is) s = o :=
  (execAll_cons h).trans hrest

theorem execAll_append (js : List Instr) (h : execAll is s = .next t) : execAll (is ++ js) s = execAll js t := by
  induction is generalizing s with
  | nil =>
    cases h
    rfl
  | cons i is ih =>
    obtain ⟨u, hu⟩ := exec_next i s
    rw [execAll_cons hu] at h
    rw [List.cons_append, execAll_cons hu, ih h]

/-- Commands that write no keys keep them, over a list. -/
theorem execAll_keys_eq (hw : ∀ i ∈ is, writesKeys i = false) (h : execAll is s = .next t) :
    t.RK0 = s.RK0 ∧ t.RK1 = s.RK1 ∧ t.RK2 = s.RK2 ∧ t.KV = s.KV := by
  induction is generalizing s with
  | nil =>
    cases h
    exact ⟨rfl, rfl, rfl, rfl⟩
  | cons i is ih =>
    obtain ⟨hi, his⟩ := List.forall_mem_cons.1 hw
    obtain ⟨u, hu⟩ := exec_next i s
    rw [execAll_cons hu] at h
    obtain ⟨h0, h1, h2, hkv⟩ := ih his h
    rcases exec_cases hu with ⟨-, rfl⟩ | ⟨-, heff⟩
    · exact ⟨h0, h1, h2, hkv⟩
    · obtain ⟨g0, g1, g2, gkv⟩ := heff.keys_eq hi
      exact ⟨h0.trans g0, h1.trans g1, h2.trans g2, hkv.trans gkv⟩

/-! Presented words: the host's pending moves do not touch what a command does, so presenting a list of canonical words is executing
the list. -/

/-- A step on the canonical word of a command runs it, with the other words still presented. -/
theorem step_present_encode (ws : List CmdWord) (h : exec i s = .next t) :
    step (present (encode i :: ws) s) = .next (present ws t) := by
  have hstep : step (present (encode i :: ws) s) = executeWord (encode i) (present ws s) := step_presented rfl
  rw [hstep]
  rcases exec_cases h with ⟨he, rfl⟩ | ⟨he, heff⟩
  · exact executeWord_locked (s := present ws t) _ he
  · rw [executeWord_ok (s := present ws s) he (decode_encode i), present, present, heff.host_eq.1]
    exact exec_of_effect (s := setInputs _ s) he (heff.setInputs _)

theorem run_present_encode (is : List Instr) (s : State) :
    core.run is.length (present (is.map encode) s) = execAll is s := by
  induction is generalizing s with
  | nil => rfl
  | cons i is ih =>
    obtain ⟨t, h⟩ := exec_next i s
    rw [execAll_cons h, ← ih t]
    exact run_succ (M := core) is.length (step_present_encode (is.map encode) h)

/-- Settles O48: the words are canonical, so the runs are the command lists, and each command is taken by its rule. -/
theorem threeCommandsEncryptABlock : Obligations.ThreeCommandsEncryptABlock := by
  unfold Obligations.ThreeCommandsEncryptABlock
  intro s k p he r c kex lds final
  refine ⟨?keyFirst, ?blockFirst, rfl, congrArg some (keyExpand_k0 k), rfl, rfl⟩
  case keyFirst =>
    exact (run_present_encode [.kex k, .lds p, .enc] s).trans
      (execAll_then (exec_kex k he) (execAll_then (exec_lds p he) (execAll_then (exec_enc he rfl rfl) rfl)))
  case blockFirst =>
    exact (run_present_encode [.lds p, .kex k, .enc] s).trans
      (execAll_then (exec_lds p he) (execAll_then (exec_kex k he) (execAll_then (exec_enc he rfl rfl) rfl)))

/-! The primitives of each stage. -/

theorem execAll_stage_zero (he : s.ERR = false) (hs : s.SV = true) (hk : s.KV = true) :
    execAll [.ark 0] s = .next (writeS (stage 0 s.S s.RK0 s.RK1 s.RK2) s) :=
  execAll_then (exec_ark rfl he hs hk) rfl

theorem execAll_stage_one (he : s.ERR = false) (hs : s.SV = true) (hk : s.KV = true) :
    execAll [.sub, .shr, .mix, .ark 1] s = .next (writeS (stage 1 s.S s.RK0 s.RK1 s.RK2) s) :=
  execAll_then (exec_sub he hs) <| execAll_then (exec_shr he hs) <| execAll_then (exec_mix he hs) <|
    execAll_then (exec_ark rfl he hs hk) rfl

theorem execAll_stage_two (he : s.ERR = false) (hs : s.SV = true) (hk : s.KV = true) :
    execAll [.sub, .shr, .ark 2] s = .next (writeS (stage 2 s.S s.RK0 s.RK1 s.RK2) s) :=
  execAll_then (exec_sub he hs) <| execAll_then (exec_shr he hs) <| execAll_then (exec_ark rfl he hs hk) rfl

/-- Settles O50: the primitives of a stage write the stage's value to S, as `STG` does. -/
theorem stageIsItsPrimitives : Obligations.StageIsItsPrimitives := by
  unfold Obligations.StageIsItsPrimitives
  rintro s t is n he hs hk (⟨hg, rfl, rfl⟩ | ⟨hg, rfl, rfl⟩ | ⟨hg, rfl, rfl⟩) h
  · cases (execAll_stage_zero he hs hk).symm.trans h
    exact exec_stg_at hg rfl he hs hk
  · cases (execAll_stage_one he hs hk).symm.trans h
    exact exec_stg_at hg rfl he hs hk
  · cases (execAll_stage_two he hs hk).symm.trans h
    exact exec_stg_at hg rfl he hs hk

/-- `LDS` of the block that S holds only restarts the stages. -/
theorem exec_lds_self (he : s.ERR = false) (hs : s.SV = true) : exec (.lds s.S) s = .next { s with STAGE := 0 } :=
  (exec_lds s.S he).trans (congrArg (fun v => Host.Outcome.next { s with SV := v, STAGE := 0 }) hs.symm)

/-- Settles O49: the three stages in order are EncryptBlock, taken by `ENC`, by `STG` or by their primitives. -/
theorem threeWaysToEncryptAgree : Obligations.ThreeWaysToEncryptAgree := by
  unfold Obligations.ThreeWaysToEncryptAgree
  intro s he hs hk c
  refine ⟨execAll_then (exec_enc he hs hk) rfl, ?stages, ?primitives⟩
  case stages =>
    exact execAll_then (exec_lds_self he hs) <| execAll_then (exec_stg_at (n := 0) rfl rfl he hs hk) <|
      execAll_then (exec_stg_at (n := 1) rfl rfl he hs hk) <|
      execAll_then (exec_stg_at (n := 2) rfl rfl he hs hk) rfl
  case primitives =>
    have stage0 := execAll_stage_zero he hs hk
    have stage1 := execAll_stage_one (s := writeS (stage 0 s.S s.RK0 s.RK1 s.RK2) s) he hs hk
    have stage2 := execAll_stage_two
      (s := writeS (stage 1 (stage 0 s.S s.RK0 s.RK1 s.RK2) s.RK0 s.RK1 s.RK2) s) he hs hk
    calc execAll ([.ark 0] ++ ([.sub, .shr, .mix, .ark 1] ++ [.sub, .shr, .ark 2])) s
      _ = _ := execAll_append _ stage0
      _ = _ := execAll_append _ stage1
      _ = _ := stage2

/-- Settles O51: each `STG` reads the round keys held when it runs. -/
theorem rekeyInsideABlock : Obligations.RekeyInsideABlock := by
  unfold Obligations.RekeyInsideABlock
  intro s p k he r final
  refine ⟨?beforeStage0, fun hk => ⟨?beforeStage1, ?beforeStage2⟩⟩
  case beforeStage0 =>
    exact execAll_then (exec_lds p he) <| execAll_then (exec_kex k he) <|
      execAll_then (exec_stg_at (n := 0) rfl rfl he rfl rfl) <|
      execAll_then (exec_stg_at (n := 1) rfl rfl he rfl rfl) <|
      execAll_then (exec_stg_at (n := 2) rfl rfl he rfl rfl) rfl
  case beforeStage1 =>
    exact execAll_then (exec_lds p he) <| execAll_then (exec_stg_at (n := 0) rfl rfl he rfl hk) <|
      execAll_then (exec_kex k he) <| execAll_then (exec_stg_at (n := 1) rfl rfl he rfl rfl) <|
      execAll_then (exec_stg_at (n := 2) rfl rfl he rfl rfl) rfl
  case beforeStage2 =>
    exact execAll_then (exec_lds p he) <| execAll_then (exec_stg_at (n := 0) rfl rfl he rfl hk) <|
      execAll_then (exec_stg_at (n := 1) rfl rfl he rfl hk) <| execAll_then (exec_kex k he) <|
      execAll_then (exec_stg_at (n := 2) rfl rfl he rfl rfl) rfl

/-- Settles O52: the commands before keep the round keys, and `LDS` then `ENC` read nothing else. -/
theorem blockResultHasNoHiddenState : Obligations.BlockResultHasNoHiddenState := by
  unfold Obligations.BlockResultHasNoHiddenState
  intro s t is p hk hw h he
  obtain ⟨h0, h1, h2, hkv⟩ := execAll_keys_eq hw h
  rw [execAll_append _ h, ← h0, ← h1, ← h2]
  exact execAll_then (exec_lds p he) (execAll_then (exec_enc he rfl (hkv.trans hk)) rfl)

end Sys2Proof.Machine
end
